-- ==== Sys2Proof/Word.lean ====
section
/-! DEFINITION. The word types of the block: bytes of a buffer and 32-bit bus words (R21, R32). -/

namespace Sys2Proof

/-- One byte of a buffer or of a wire format (R21). -/
abbrev Byte := BitVec 8

/-- A 32-bit register, command word or bus word (R32, R140). -/
abbrev Word := BitVec 32

end Sys2Proof
end

