-- ==== Sys2Proof/Syntax.lean ====
section
/-! DEFINITION. The commands of the block (R144) and the operations of a host program (R148). -/

namespace Sys2Proof

/-- The commands, one constructor per row of spec/opcode_table.json (R144).
The only operands a command word carries are PREFIX and USE_AF (R142). -/
inductive Instr where
  /-- PESH_TSENC, OPC 0x01 (R211). -/
  | peshTsenc
  /-- TS5_ENC, OPC 0x02, with its PREFIX operand, an unsigned number 0 to 15 (R142, R220). -/
  | ts5Enc (pfx : Nat)
  /-- PESH_ENC, OPC 0x03 (R230). -/
  | peshEnc
  /-- PESH_DEC, OPC 0x04 (R240). -/
  | peshDec
  /-- PES_BUILD_AUDIO, OPC 0x10 (R270). -/
  | pesBuildAudio
  /-- PES_BUILD_VIDEO, OPC 0x11 (R275). -/
  | pesBuildVideo
  /-- PES_DEC, OPC 0x12 (R280). -/
  | pesDec
  /-- TS_SEGMENT, OPC 0x20 (R330). -/
  | tsSegment
  /-- TS_HDR_ENC, OPC 0x30 (R380). -/
  | tsHdrEnc
  /-- TS_HDR_DEC, OPC 0x31 (R383). -/
  | tsHdrDec
  /-- PCR_ENC, OPC 0x32 (R386). -/
  | pcrEnc
  /-- TS_PKT_ENC, OPC 0x33, with its USE_AF operand (R142, R400). -/
  | tsPktEnc (useAf : Bool)
  /-- TS_PKT_DEC, OPC 0x34 (R410). -/
  | tsPktDec
deriving DecidableEq, Repr

/-- The widths of a host access (R101, R103). -/
inductive Width where
  | w8
  | w16
  | w32
deriving DecidableEq, Repr

/-- What can happen to the block from outside, in the order in which it will happen: the primitive
operations of a host program, each one bus transaction (R148), the two pseudo-operations of R149 that
depend on what a read returns, and the platform's reset input (R480).
The other pseudo-operations expand to lists of these (Machine/HostProgram.lean). -/
inductive HostOp where
  /-- `W32`, `W16`, `W8 off, v` (R148). -/
  | write (w : Width) (off : Nat) (v : Word)
  /-- `R32`, `R16`, `R8 off` (R148). -/
  | read (w : Width) (off : Nat)
  /-- `WAIT` (R149): `R32 STATUS` again and again until the word read has BUSY = 0. -/
  | wait
  /-- One turn of `COPY` (R149): `R8 src → b`, then `W8 dst, b`. -/
  | copyByte (src dst : Nat)
  /-- Power-on reset, the platform's reset input (R480, R481). -/
  | powerOn
deriving DecidableEq, Repr

end Sys2Proof
end

