-- ==== Sys2Proof/WellFormed.lean ====
section
/-! DEFINITION. Which commands and host operations the encoding admits (R141, R148). -/

namespace Sys2Proof

/-- The number of bytes of an access (R103). -/
def Width.bytes : Width → Nat
  | .w8 => 1
  | .w16 => 2
  | .w32 => 4

/-- The size of the host-visible window (R100). -/
def windowSize : Nat := 0x80000

/-- A command whose operands fit their fields of the command word: PREFIX has 4 bits (R141). -/
def Instr.wellFormed : Instr → Bool
  | .peshTsenc => true
  | .ts5Enc pfx => decide (pfx < 16)
  | .peshEnc => true
  | .peshDec => true
  | .pesBuildAudio => true
  | .pesBuildVideo => true
  | .pesDec => true
  | .tsSegment => true
  | .tsHdrEnc => true
  | .tsHdrDec => true
  | .pcrEnc => true
  | .tsPktEnc _ => true
  | .tsPktDec => true

/-- A host operation whose offsets lie in the window (R100) and whose value fits its width (R148). -/
def HostOp.wellFormed : HostOp → Bool
  | .write w off v => decide (off < windowSize) && decide (v.toNat < 2 ^ (8 * w.bytes))
  | .read _ off => decide (off < windowSize)
  | .wait => true
  | .copyByte src dst => decide (src < windowSize) && decide (dst < windowSize)
  | .powerOn => true

end Sys2Proof
end

