-- ==== Sys2Proof/Decode.lean ====
section
/-! DEFINITION. The command decoder (R141, R143) and, after it, the encoder (R144, R149). -/

namespace Sys2Proof

/-- Why a command word is illegal, one name for each clause of R143. -/
inductive DecodeError where
  /-- OPC is not in the table of R144. -/
  | reservedOpcode
  /-- A bit of 11:9 or of 31:16 is 1. -/
  | reservedBits
  /-- USE_AF = 1 and OPC is not 0x33. -/
  | useAfNotAllowed
  /-- PREFIX is not 0 and OPC is not 0x02. -/
  | pfxNotAllowed
deriving DecidableEq, Repr

/-- OPC, bits 7:0 of the command word (R141). -/
def opcField (w : Word) : Nat := (w.extractLsb' 0 8).toNat

/-- USE_AF, bit 8 of the command word (R141). -/
def useAfField (w : Word) : Bool := w.getLsbD 8

/-- PREFIX, bits 15:12 of the command word (R141). -/
def pfxField (w : Word) : Nat := (w.extractLsb' 12 4).toNat

/-- The reserved bits 11:9 of the command word (R141). -/
def rsvAField (w : Word) : Nat := (w.extractLsb' 9 3).toNat

/-- The reserved bits 31:16 of the command word (R141). -/
def rsvBField (w : Word) : Nat := (w.extractLsb' 16 16).toNat

/-- The opcode table of R144, with the two operand fields handed to the commands that have them. -/
def commandOf (opc pfx : Nat) (useAf : Bool) : Option Instr :=
  match opc with
  | 0x01 => some .peshTsenc
  | 0x02 => some (.ts5Enc pfx)
  | 0x03 => some .peshEnc
  | 0x04 => some .peshDec
  | 0x10 => some .pesBuildAudio
  | 0x11 => some .pesBuildVideo
  | 0x12 => some .pesDec
  | 0x20 => some .tsSegment
  | 0x30 => some .tsHdrEnc
  | 0x31 => some .tsHdrDec
  | 0x32 => some .pcrEnc
  | 0x33 => some (.tsPktEnc useAf)
  | 0x34 => some .tsPktDec
  | _ => none

/-- Decoding of a command word: the four clauses of R143, and the table of R144 for the rest. -/
def decode (w : Word) : Except DecodeError Instr :=
  match commandOf (opcField w) (pfxField w) (useAfField w) with
  | none => .error .reservedOpcode
  | some i =>
    if rsvAField w ≠ 0 ∨ rsvBField w ≠ 0 then .error .reservedBits
    else if useAfField w = true ∧ opcField w ≠ 0x33 then .error .useAfNotAllowed
    else if pfxField w ≠ 0 ∧ opcField w ≠ 0x02 then .error .pfxNotAllowed
    else .ok i

/-- The instruction the decoder reads from a table word: a command is one 32-bit word written to CMD
(R140), so a word of more than 32 bits is none. -/
def decodeTableWord (nbits w : Nat) : Option Instr :=
  if 2 ^ 32 ≤ w % 2 ^ nbits then none
  else
    match decode (BitVec.ofNat 32 (w % 2 ^ nbits)) with
    | .ok i => some i
    | .error _ => none

/-- The command word of an instruction (the exact words of R144; PREFIX shifted as in R149). -/
def encode : Instr → Word
  | .peshTsenc => 0x00000001
  | .ts5Enc pfx => 0x00000002 ||| (BitVec.ofNat 32 pfx <<< 12)
  | .peshEnc => 0x00000003
  | .peshDec => 0x00000004
  | .pesBuildAudio => 0x00000010
  | .pesBuildVideo => 0x00000011
  | .pesDec => 0x00000012
  | .tsSegment => 0x00000020
  | .tsHdrEnc => 0x00000030
  | .tsHdrDec => 0x00000031
  | .pcrEnc => 0x00000032
  | .tsPktEnc false => 0x00000033
  | .tsPktEnc true => 0x00000133
  | .tsPktDec => 0x00000034

end Sys2Proof
end

