-- ==== Sys2Proof/Machine/Bytes.lean ====
section
/-! DEFINITION. Byte strings and numbers: big-endian wire fields (R21, R105) and little-endian bus lanes (R103). -/

namespace Sys2Proof.Machine

/-- `FF×k` (R21). -/
def ffs (k : Nat) : List Byte := List.replicate k 0xFF

/-- `BE16(v)` (R21). -/
def be16 (v : Nat) : List Byte := [BitVec.ofNat 8 (v / 256), BitVec.ofNat 8 v]

/-- The number a big-endian byte string holds (R105). -/
def beValue (bs : List Byte) : Nat := bs.foldl (fun acc b => acc * 256 + b.toNat) 0

/-- The `n` bytes of a bus word by lane: byte `i` is data bits `8i+7` to `8i` (R103). -/
def leBytes (n : Nat) (v : Word) : List Byte := (List.range n).map fun i => v.extractLsb' (8 * i) 8

/-- The number whose lanes are the bytes: byte `i` is bits `8i+7` to `8i` (R103). -/
def leValue : List Byte → Nat
  | [] => 0
  | b :: bs => b.toNat + 256 * leValue bs

end Sys2Proof.Machine
end

