-- ==== Sys2Proof/Config.lean ====
section
/-! DEFINITION. What an implementation of the block fixes, and the values the spec leaves open.
An `opaque` constant has no body a proof can see: a theorem that mentions it holds for every value (logs 1 to 7). -/

namespace Sys2Proof

/-- P_DTS_ONLY, what the timestamp encoder does with a DTS and no PTS (R11, R206). -/
inductive DtsOnly where
  | literal
  | reject
deriving DecidableEq, Repr, Inhabited

/-- P_TS_RANGE, what it does with a value outside [0, 2^33) (R12, R205). -/
inductive TsRange where
  | wrap
  | reject
deriving DecidableEq, Repr, Inhabited

/-- The implementation parameters of 00_scope.md section 4. State carries them (log 6): no step changes them. -/
structure Params where
  /-- P_DTS_ONLY (R11). -/
  dtsOnly : DtsOnly
  /-- P_TS_RANGE (R12). -/
  tsRange : TsRange
  /-- P_VIDEO_DAI (R13). -/
  videoDai : Bool
  /-- P_AUDIO_HDR_LEN (R14). -/
  audioHdrLen : Nat
  /-- P_AUD_IDR (R15). -/
  audIdr : List Byte
  /-- P_AUD_NONIDR (R15). -/
  audNonIdr : List Byte
  /-- P_IN_SIZE (R10). -/
  inSize : Nat
  /-- P_OUT_SIZE (R10). -/
  outSize : Nat
  /-- P_CFG_SIZE (R10). -/
  cfgSize : Nat
deriving DecidableEq, Repr

namespace Config

/-- P_DTS_ONLY is OPEN (R11). DESIGN CHOICE: log 6. -/
opaque dtsOnly : DtsOnly

/-- P_TS_RANGE is OPEN (R12). DESIGN CHOICE: log 6. -/
opaque tsRange : TsRange

/-- P_VIDEO_DAI is OPEN (R13). DESIGN CHOICE: log 6. -/
opaque videoDai : Bool

/-- P_AUDIO_HDR_LEN is OPEN (R14). DESIGN CHOICE: log 6. -/
opaque audioHdrLen : Nat

/-- P_AUD_IDR is OPEN (R15). DESIGN CHOICE: log 6. -/
opaque audIdr : List Byte

/-- P_AUD_NONIDR is OPEN (R15). DESIGN CHOICE: log 6. -/
opaque audNonIdr : List Byte

/-- Byte number `i` of F_AUDIO_HDR(cfg, n), the opaque audio framing header (R20). DESIGN CHOICE: log 7. -/
opaque audioHdrByte (cfg : Word) (n i : Nat) : Byte

/-- The value of an unspecified buffer byte: draw number, then window offset (R68, R481, R482). DESIGN CHOICE: logs 1 and 2. -/
opaque freeByte (draw off : Nat) : Byte

/-- The value a read returns while the engine may be writing what it reads: a fresh draw on each read (R73).
DESIGN CHOICE: log 3. -/
opaque freeRead (draw : Nat) : Word

/-- How many host accesses pass before the ENGINE step of an accepted command (R492, R496). DESIGN CHOICE: log 4. -/
opaque engineDelay (draw : Nat) : Nat

/-- The default P_IN_SIZE (R10). -/
def inSize : Nat := 131072

/-- The default P_OUT_SIZE (R10). -/
def outSize : Nat := 262144

/-- The default P_CFG_SIZE (R10). -/
def cfgSize : Nat := 4096

/-- The parameters of this implementation: the spec's sizes (R10), the rest OPEN (log 6, log 8). -/
def params : Params where
  dtsOnly := dtsOnly
  tsRange := tsRange
  videoDai := videoDai
  audioHdrLen := audioHdrLen
  audIdr := audIdr
  audNonIdr := audNonIdr
  inSize := inSize
  outSize := outSize
  cfgSize := cfgSize

end Config

end Sys2Proof
end

