-- ==== Sys2Proof/Machine/State.lean ====
section
/-! DEFINITION. The state of the block (R31), its reset value (R75), and the reasons a step can stop. -/

namespace Sys2Proof.Machine

/-- Why a step stops with a fault. No command and no access inside the window does (R104, R440). -/
inductive Fault where
  /-- A host operation at an offset outside the 0x80000-byte window (R100), which is no access of this block:
  raised by `hostStep`. Safe: the model stops, nothing is claimed of such a program (log 10). -/
  | outsideWindow (off : Nat)
deriving DecidableEq, Repr

/-- Why a step is refused. -/
inductive Refusal where
  /-- Raised by an arm of `exec` whose command has no meaning yet; no arm is one. Safe. -/
  | notModelled (mnemonic : String)
deriving DecidableEq, Repr

/-- HDR_CTRL (R57): wire bytes 0, 1 and 2 of the PES optional header; bits 31:24 are reserved and not stored (log 15). -/
structure HdrCtrl where
  /-- Bits 7:0: MARKER, SC, PRIO, DAI, COPY, ORIG. -/
  f0 : Byte
  /-- Bits 15:8: PTS_DTS, ESCR, ESRATE, DSM, ACI, CRC, EXT. -/
  f1 : Byte
  /-- Bits 23:16: HL. -/
  hl : Byte
deriving DecidableEq, Repr

/-- TSH (R62): the fields of the TS header; SYNC (bits 31:24) is the constant 0x47 and not stored. -/
structure TsHeader where
  tei : Bool
  pusi : Bool
  prio : Bool
  pid : BitVec 13
  sc : BitVec 2
  af : Bool
  pl : Bool
  cc : BitVec 4
deriving DecidableEq, Repr

/-- DIAG (R42): the code of the last logged event and the saturating number of logged events. -/
structure Diag where
  last : BitVec 4
  count : BitVec 16
deriving DecidableEq, Repr

/-- What the bus answers a host access (R104, R148): whether it was rejected, and, for a read, the data. -/
structure BusResponse where
  error : Bool
  data : Option Word
deriving DecidableEq, Repr

/-- The bytes of the buffers that something has written, by window offset (R101): strictly rising offsets, and no
HDR_OPT byte 0, which is what an unlisted HDR_OPT byte reads as (R75). Unlisted bytes of the other buffers are unspecified (log 1). -/
abbrev Memory := List Host.Cell

/-- The state of the block (R31, R32, R70) and, from `params` on, the model's own fields (INVENTORY.md). -/
structure State where
  /-- STATUS.BUSY, which is also the hidden PEND (R36, R70). -/
  busy : Bool
  /-- STATUS.DONE (R36). -/
  done : Bool
  /-- STATUS.BERR (R36). -/
  berr : Bool
  /-- STATUS.ERR (R36). -/
  err : BitVec 4
  /-- CTRL.IRQ_EN (R35). -/
  irqEn : Bool
  /-- CMD (R37). -/
  cmd : Word
  /-- IN_LEN (R38). -/
  inLen : Word
  /-- OUT_LEN (R39). -/
  outLen : Word
  /-- FILL_COUNT (R40). -/
  fillCount : Word
  /-- PKT_COUNT (R41). -/
  pktCount : Word
  /-- DIAG (R42). -/
  diag : Diag
  /-- TS_VALID.PTS_V (R46). -/
  ptsV : Bool
  /-- TS_VALID.DTS_V (R46). -/
  dtsV : Bool
  /-- TIMESCALE (R45). -/
  timescale : Word
  /-- PTS_LO (R47). -/
  ptsLo : Word
  /-- PTS_HI (R47). -/
  ptsHi : Word
  /-- DTS_LO (R48). -/
  dtsLo : Word
  /-- DTS_HI (R48). -/
  dtsHi : Word
  /-- T0_LO (R49). -/
  t0Lo : Word
  /-- T0_HI (R49). -/
  t0Hi : Word
  /-- STREAM_ID (R50). -/
  streamId : Byte
  /-- CFG_CTRL.CFG_V (R51). -/
  cfgV : Bool
  /-- AUD_CFG (R52). -/
  audCfg : Word
  /-- SPS_LEN (R53). -/
  spsLen : Word
  /-- PPS_LEN (R54). -/
  ppsLen : Word
  /-- PESD_SID (R55). -/
  pesdSid : Byte
  /-- PESD_LEN (R56). -/
  pesdLen : BitVec 16
  /-- HDR_CTRL (R57). -/
  hdrCtrl : HdrCtrl
  /-- TSH (R62). -/
  tsh : TsHeader
  /-- AF_FLAGS (R63). -/
  afFlags : Byte
  /-- AF_LEN (R64). -/
  afLen : Byte
  /-- PCR_CTRL.PCR_V (R65). -/
  pcrV : Bool
  /-- PCR_BASE_LO (R66). -/
  pcrBaseLo : Word
  /-- PCR_BASE_HI (R66). -/
  pcrBaseHi : BitVec 1
  /-- PCR_EXT (R67). -/
  pcrExt : BitVec 9
  /-- The four buffers HDR_OPT, CFG_BUF, IN_BUF and OUT_BUF (R59, R68). -/
  mem : Memory
  /-- The implementation's parameters; no step changes them (log 6). -/
  params : Params
  /-- What will happen to the block from outside, next one first (log 9). -/
  host : List HostOp
  /-- The bus responses so far, newest first (log 9). -/
  resps : List BusResponse
  /-- How many host accesses pass before the pending command's ENGINE step (R492; log 4). -/
  delay : Nat
  /-- The next unused draw of a free value (log 18). -/
  draws : Nat
  /-- The draw of the unspecified bytes of IN_BUF and CFG_BUF (log 1). -/
  memDraw : Nat
  /-- The draw of the unspecified bytes of OUT_BUF (logs 1 and 2). -/
  outDraw : Nat
deriving DecidableEq, Repr

/-- HDR_DEFAULT, 0x00000080 as a register (R61). -/
def HdrCtrl.default : HdrCtrl := { f0 := 0x80, f1 := 0x00, hl := 0x00 }

/-- TSH = 0x47000000 (R75, R383). -/
def TsHeader.default : TsHeader :=
  { tei := false, pusi := false, prio := false, pid := 0, sc := 0, af := false, pl := false, cc := 0 }

/-- The block after power-on reset (R75, R481): the buffers list nothing. -/
def State.reset : State where
  busy := false
  done := false
  berr := false
  err := 0
  irqEn := false
  cmd := 0x00000000
  inLen := 0
  outLen := 0
  fillCount := 0
  pktCount := 0
  diag := { last := 0, count := 0 }
  ptsV := false
  dtsV := false
  timescale := 90000
  ptsLo := 0
  ptsHi := 0
  dtsLo := 0
  dtsHi := 0
  t0Lo := 0
  t0Hi := 0
  streamId := 0
  cfgV := false
  audCfg := 0
  spsLen := 0
  ppsLen := 0
  pesdSid := 0
  pesdLen := 0
  hdrCtrl := HdrCtrl.default
  tsh := TsHeader.default
  afFlags := 0
  afLen := 0
  pcrV := false
  pcrBaseLo := 0
  pcrBaseHi := 0
  pcrExt := 0
  mem := []
  params := Config.params
  host := []
  resps := []
  delay := 0
  draws := 1
  memDraw := 0
  outDraw := 0

end Sys2Proof.Machine
end

