-- ==== Sys2Proof/Machine/Flags.lean ====
section
/-! DEFINITION. The status codes (R430), the diagnostic log (R42) and the interrupt output (R446). -/

namespace Sys2Proof.Machine

/-- The names of the status codes (R430). -/
inductive Status where
  | ok
  | malformedInput
  | unrepresentableLength
  | missingConfiguration
  | invalidStartCode
  | illegalCommand
  | invalidOperand
  | bufferOverflow
  | invalidTimestampCombination
  | timestampOutOfRange
deriving DecidableEq, Repr

/-- The number of a status code (R430). -/
def Status.code : Status → BitVec 4
  | .ok => 0
  | .malformedInput => 1
  | .unrepresentableLength => 2
  | .missingConfiguration => 3
  | .invalidStartCode => 4
  | .illegalCommand => 5
  | .invalidOperand => 6
  | .bufferOverflow => 7
  | .invalidTimestampCombination => 8
  | .timestampOutOfRange => 9

/-- Logging an event: LAST <- code, COUNT <- min(COUNT + 1, 0xFFFF) (R42). -/
def Diag.log (d : Diag) (st : Status) : Diag :=
  { last := st.code, count := if d.count = 0xFFFF then 0xFFFF else d.count + 1 }

/-- The interrupt output: IRQ = CTRL.IRQ_EN AND STATUS.DONE (R446). -/
def State.irq (s : State) : Bool := s.irqEn && s.done

/-- MARKER, the 2-bit constant field of a PES header (R57). -/
def HdrCtrl.marker (h : HdrCtrl) : BitVec 2 := h.f0.extractLsb' 6 2

/-- SC of HDR_CTRL (R57). -/
def HdrCtrl.sc (h : HdrCtrl) : BitVec 2 := h.f0.extractLsb' 4 2

/-- PRIO of HDR_CTRL (R57). -/
def HdrCtrl.prio (h : HdrCtrl) : Bool := h.f0.getLsbD 3

/-- DAI, the data-alignment indicator of HDR_CTRL (R57). -/
def HdrCtrl.dai (h : HdrCtrl) : Bool := h.f0.getLsbD 2

/-- COPY of HDR_CTRL (R57). -/
def HdrCtrl.copy (h : HdrCtrl) : Bool := h.f0.getLsbD 1

/-- ORIG of HDR_CTRL (R57). -/
def HdrCtrl.orig (h : HdrCtrl) : Bool := h.f0.getLsbD 0

/-- PTS_DTS, the indicator of HDR_CTRL (R57, R58). -/
def HdrCtrl.ptsDts (h : HdrCtrl) : BitVec 2 := h.f1.extractLsb' 6 2

/-- ESCR of HDR_CTRL (R57). -/
def HdrCtrl.escr (h : HdrCtrl) : Bool := h.f1.getLsbD 5

/-- ESRATE of HDR_CTRL (R57). -/
def HdrCtrl.esrate (h : HdrCtrl) : Bool := h.f1.getLsbD 4

/-- DSM of HDR_CTRL (R57). -/
def HdrCtrl.dsm (h : HdrCtrl) : Bool := h.f1.getLsbD 3

/-- ACI of HDR_CTRL (R57). -/
def HdrCtrl.aci (h : HdrCtrl) : Bool := h.f1.getLsbD 2

/-- CRC of HDR_CTRL (R57). -/
def HdrCtrl.crc (h : HdrCtrl) : Bool := h.f1.getLsbD 1

/-- EXT of HDR_CTRL (R57). -/
def HdrCtrl.ext (h : HdrCtrl) : Bool := h.f1.getLsbD 0

/-- `HDR_CTRL.PTS_DTS <- ind`, the other fields kept (R57, R211). -/
def HdrCtrl.withPtsDts (h : HdrCtrl) (ind : BitVec 2) : HdrCtrl :=
  { h with f1 := ind ++ h.f1.extractLsb' 0 6 }

/-- PCR_F, bit 4 of an adaptation-field flags byte (R63, R373). -/
def pcrFlag (fl : Byte) : Bool := fl.getLsbD 4

/-- OPCR_F, SPLICE_F, PRIV_F, AFEXT_F: the flags whose optional fields the block does not build (R374). -/
def optionalFieldFlags (fl : Byte) : BitVec 4 := fl.extractLsb' 0 4

end Sys2Proof.Machine
end

