-- ==== Sys2Proof/Machine/Ops.lean ====
section
/-! DEFINITION. The named operations over the buffers and over the end of a command: MemRead, MemWrite, emit and raise
(R23), completion (R440), error atomicity (R441), the two resets (R480) and the storing of a command word (R37).
The block takes no exception and returns from none (R444): `raise` is what it has in that place. -/

namespace Sys2Proof.Machine

/-! ### The address map (R101) -/

/-- The window offset of HDR_OPT byte 0 (R101). -/
def hdrOptBase : Nat := 0x00100

/-- P_OPT_SIZE (R10). -/
def hdrOptSize : Nat := 256

/-- The window offset of CFG_BUF byte 0 (R101). -/
def cfgBase : Nat := 0x01000

/-- The window offset of IN_BUF byte 0 (R101). -/
def inBase : Nat := 0x20000

/-- The window offset of OUT_BUF byte 0 (R101). -/
def outBase : Nat := 0x40000

/-- Offset `a` lies in the HDR_OPT region (R101). -/
def inHdrOptRegion (a : Nat) : Bool := decide (hdrOptBase ≤ a ∧ a < hdrOptBase + hdrOptSize)

/-- Offset `a` lies in the OUT_BUF region (R101). -/
def inOutRegion (a : Nat) : Bool := decide (outBase ≤ a ∧ a < windowSize)

/-- Offset `a` is a byte of one of the four buffers; past a buffer's size its region is reserved (R101). -/
def bufferByte (p : Params) (a : Nat) : Bool :=
  inHdrOptRegion a || decide (cfgBase ≤ a ∧ a < cfgBase + p.cfgSize) ||
    decide (inBase ≤ a ∧ a < inBase + p.inSize) || decide (outBase ≤ a ∧ a < outBase + p.outSize)

/-! ### Memory -/

/-- The byte the memory lists at `a`, if it lists one. -/
def Memory.find : Memory → Nat → Option Byte
  | [], _ => none
  | (x, v) :: m, a => if x = a then some v else Memory.find m a

/-- Whether a byte `v` at `a` must be listed: not where it is what an unlisted byte reads as, HDR_OPT's 0 (R75). -/
def mustList (a : Nat) (v : Byte) : Bool := !(inHdrOptRegion a && v == 0)

/-- The entries of a byte string that stands from `a` on. -/
def Memory.cells : Nat → List Byte → Memory
  | _, [] => []
  | a, b :: bs => if mustList a b then (a, b) :: Memory.cells (a + 1) bs else Memory.cells (a + 1) bs

/-- The memory with the byte string `bs` stored from `a` on. -/
def Memory.store (m : Memory) (a : Nat) (bs : List Byte) : Memory :=
  m.filter (fun c => decide (c.1 < a)) ++ Memory.cells a bs ++ m.filter (fun c => decide (a + bs.length ≤ c.1))

/-- The offsets rise strictly from `lo` on and every entry must be listed. -/
def Memory.wfFrom : Nat → Memory → Bool
  | _, [] => true
  | lo, (x, v) :: m => decide (lo ≤ x) && mustList x v && Memory.wfFrom (x + 1) m

/-- The canonical form of a memory: strictly rising offsets, no HDR_OPT byte 0 listed. -/
def Memory.wf (m : Memory) : Bool := Memory.wfFrom 0 m

/-- What an unlisted byte reads as: 0 in HDR_OPT (R75), a free value elsewhere (R481, R482; logs 1 and 2). -/
def State.unlistedByte (s : State) (a : Nat) : Byte :=
  if inHdrOptRegion a then 0
  else if inOutRegion a then Config.freeByte s.outDraw a
  else Config.freeByte s.memDraw a

/-- One buffer byte, by its window offset. -/
def State.byteAt (s : State) (a : Nat) : Byte := (Memory.find s.mem a).getD (s.unlistedByte a)

/-- `MemRead(BUF, a, n)` with `base` the window offset of `BUF[a]` (R23). -/
def memRead (base n : Nat) (s : State) : List Byte := (List.range n).map fun i => s.byteAt (base + i)

/-- `MemWrite(BUF, a, bs)` with `base` the window offset of `BUF[a]` (R23). -/
def memWrite (base : Nat) (bs : List Byte) (s : State) : State := { s with mem := Memory.store s.mem base bs }

/-- `OUT_LEN <- 0; emit(bs)` (R23). -/
def emit (bs : List Byte) (s : State) : State :=
  { memWrite outBase bs s with outLen := BitVec.ofNat 32 bs.length }

/-! ### The end of a command -/

/-- An event logged in DIAG (R42). -/
def logEvent (st : Status) (s : State) : State := { s with diag := s.diag.log st }

/-- The end of the ENGINE step: STATUS.ERR <- status, PEND and BUSY <- 0, DONE <- 1 (R440); a command that
completes with MalformedInput is logged in DIAG (R42). -/
def complete (st : Status) (s : State) : State :=
  { s with
    err := st.code
    busy := false
    done := true
    diag := if st = .malformedInput then s.diag.log st else s.diag }

/-- `raise E` (R23) with the writes every error makes (R441): OUT_LEN <- 0 and the completion. A command with further
writes on an error (FILL_COUNT, PKT_COUNT, a default structure) makes them on the state it hands over. -/
def raise (st : Status) (s : State) : State := complete st { s with outLen := 0 }

/-- An illegal command word changes nothing but STATUS and OUT_LEN (R143). -/
def illegalCommand (s : State) : State := raise .illegalCommand s

/-! ### The command latch -/

/-- `w` stored in CMD and made pending: BUSY <- 1, DONE <- 0 (R37, R70). -/
def latchCommand (w : Word) (s : State) : State := { s with cmd := w, busy := true, done := false }

/-- An accepted host write of CMD (R37); the ENGINE step follows after a free number of host accesses (R492; log 4). -/
def acceptCommand (w : Word) (s : State) : State :=
  { latchCommand w s with delay := Config.engineDelay s.draws, draws := s.draws + 1 }

/-! ### Resets -/

/-- Soft reset (R482): the registers and HDR_OPT take their reset values, IN_BUF and CFG_BUF stay, and OUT_BUF stays
when no command was pending and is unspecified when one was abandoned. -/
def softReset (s : State) : State :=
  { State.reset with
    mem := s.mem.filter (fun c => !inHdrOptRegion c.1 && !(s.busy && inOutRegion c.1))
    params := s.params
    host := s.host
    resps := s.resps
    draws := if s.busy then s.draws + 1 else s.draws
    memDraw := s.memDraw
    outDraw := if s.busy then s.draws else s.outDraw }

/-- Power-on reset of a block in use (R480, R481): every register at its reset value, HDR_OPT 0, the other buffers
unspecified afresh. -/
def powerOnReset (s : State) : State :=
  { State.reset with
    params := s.params
    host := s.host
    resps := s.resps
    draws := s.draws + 1
    memDraw := s.draws
    outDraw := s.draws }

end Sys2Proof.Machine
end

