-- ==== Sys2Proof/Machine/Operands.lean ====
section
/-! DEFINITION. The operand forms of the commands (R146): register pairs, IN_BUF[0..IN_LEN), the HDR group, the PCR. -/

namespace Sys2Proof.Machine

/-- A register pair X_HI:X_LO as a 64-bit value (R22). -/
def pair (hi lo : Word) : BitVec 64 := hi ++ lo

/-- PTS as a signed tick count (R47). -/
def State.pts (s : State) : Int := (pair s.ptsHi s.ptsLo).toInt

/-- DTS as a signed tick count (R48). -/
def State.dts (s : State) : Int := (pair s.dtsHi s.dtsLo).toInt

/-- T0 as a signed tick count (R49). -/
def State.t0 (s : State) : Int := (pair s.t0Hi s.t0Lo).toInt

/-- PTS_HI:PTS_LO as an unsigned 64-bit value, the operand of TS5_ENC (R47, R220). -/
def State.ptsRaw (s : State) : Nat := (pair s.ptsHi s.ptsLo).toNat

/-- The 33-bit PCR base (R66). -/
def State.pcrBase (s : State) : BitVec 33 := s.pcrBaseHi ++ s.pcrBaseLo

/-- `PCR_BASE <- base` (R66). -/
def withPcrBase (base : BitVec 33) (s : State) : State :=
  { s with pcrBaseHi := base.extractLsb' 32 1, pcrBaseLo := base.extractLsb' 0 32 }

/-- IN_LEN as a number (R38). -/
def State.inCount (s : State) : Nat := s.inLen.toNat

/-- IN_LEN > P_IN_SIZE, an InvalidOperand of every command that reads IN_BUF (R38, R432). -/
def State.inLenTooLarge (s : State) : Bool := decide (s.params.inSize < s.inCount)

/-- `MemRead(IN_BUF, 0, IN_LEN)`. -/
def State.input (s : State) : List Byte := memRead inBase s.inCount s

/-- A PES optional header value H = (f0, f1, hl, opt, ε) (R200). -/
structure PesHdr where
  f0 : Byte
  f1 : Byte
  hl : Byte
  opt : List Byte
deriving DecidableEq, Repr

/-- HDR_DEFAULT as a header value (R61). -/
def PesHdr.default : PesHdr := { f0 := 0x80, f1 := 0x00, hl := 0x00, opt := [] }

/-- The header held in the registers (R201). -/
def State.hdr (s : State) : PesHdr :=
  { f0 := s.hdrCtrl.f0, f1 := s.hdrCtrl.f1, hl := s.hdrCtrl.hl, opt := memRead hdrOptBase s.hdrCtrl.hl.toNat s }

/-- `HDR <- H` (R201): HDR_OPT from hl on is left as it is. -/
def writeHdr (h : PesHdr) (s : State) : State :=
  { memWrite hdrOptBase h.opt s with hdrCtrl := { f0 := h.f0, f1 := h.f1, hl := h.hl } }

/-- `HdrBytes(H) = f0 ‖ f1 ‖ hl ‖ opt ‖ stuff` with stuff = ε (R231, R60). -/
def hdrBytes (h : PesHdr) : List Byte := [h.f0, h.f1, h.hl] ++ h.opt

end Sys2Proof.Machine
end

