-- ==== Sys2Proof/Machine/PesHeader.lean ====
section
/-! DEFINITION. The PES header codec: the timestamp functions (R202 to R210) and the commands PESH_TSENC, TS5_ENC,
PESH_ENC and PESH_DEC (R211 to R241). -/

namespace Sys2Proof.Machine

/-- `RoundHalfAway(N, D)`: the integer nearest to N/D, ties away from zero, for D > 0 (R204). -/
def roundHalfAway (n : Int) (d : Nat) : Int :=
  if 0 ≤ n then (2 * n + d) / (2 * d) else -((-2 * n + d) / (2 * d))

/-- `RangeCheck(v)` (R205). -/
def rangeCheck (p : Params) (v : Int) : Except Status (BitVec 33) :=
  if 0 ≤ v ∧ v < 2 ^ 33 then .ok (BitVec.ofNat 33 v.toNat)
  else
    match p.tsRange with
    | .wrap => .ok (BitVec.ofNat 33 (v % 2 ^ 33).toNat)
    | .reject => .error .timestampOutOfRange

/-- The value of a timestamp before its range check: `RoundHalfAway((X − T0)·90000, TIMESCALE)`, exact (R202, R203). -/
def roundedTicks (s : State) (x : Int) : Int := roundHalfAway ((x - s.t0) * 90000) s.timescale.toNat

/-- `TickValue(X)` (R202). -/
def tickValue (s : State) (x : Int) : Except Status (BitVec 33) := rangeCheck s.params (roundedTicks s x)

/-- `TS5(v, p)`: the 5-byte timestamp, chunks of 3, 15 and 15 bits, each followed by a marker bit 1 (R208). -/
def ts5 (v : BitVec 33) (p : BitVec 4) : List Byte :=
  [p ++ v.extractLsb' 30 3 ++ 1#1,
   v.extractLsb' 22 8,
   v.extractLsb' 15 7 ++ 1#1,
   v.extractLsb' 7 8,
   v.extractLsb' 0 7 ++ 1#1]

/-- The indicator of the timestamps provided: bit 1 the PTS, bit 0 the DTS (R58, R206). -/
def indicator (p d : Bool) : BitVec 2 := BitVec.ofBool p ++ BitVec.ofBool d

/-- The field of one timestamp when its indicator bit is set, nothing otherwise (R210). -/
def timestampField (s : State) (present : Bool) (x : Int) (pfx : BitVec 4) : Except Status (List Byte) :=
  if present then
    match tickValue s x with
    | .ok v => .ok (ts5 v pfx)
    | .error e => .error e
  else .ok []

/-- `TimestampFields(p, d)`: the optional-field packer (R210). The PTS prefix is the indicator, the DTS prefix 0b0001 (R207). -/
def timestampFields (s : State) (p d : Bool) : Except Status (BitVec 2 × List Byte) :=
  let ind := indicator p d
  if ind ≠ 0 ∧ s.timescale = 0 then .error .invalidOperand
  else if ind = 0b01 ∧ s.params.dtsOnly = .reject then .error .invalidTimestampCombination
  else
    match timestampField s p s.pts (ind.setWidth 4) with
    | .error e => .error e
    | .ok ptsBytes =>
      match timestampField s d s.dts 0b0001 with
      | .error e => .error e
      | .ok dtsBytes => .ok (ind, ptsBytes ++ dtsBytes)

/-- The effect of PESH_TSENC (R211). -/
def peshTsenc (s : State) : State :=
  match timestampFields s s.ptsV s.dtsV with
  | .error e => raise e s
  | .ok (ind, opt) =>
    complete .ok
      { memWrite hdrOptBase opt s with
        hdrCtrl := { s.hdrCtrl.withPtsDts ind with hl := BitVec.ofNat 8 opt.length }
        outLen := 0 }

/-- The effect of TS5_ENC with the prefix nibble `pfx` (R220). -/
def ts5Enc (pfx : Nat) (s : State) : State :=
  if 2 ^ 33 ≤ s.ptsRaw then raise .invalidOperand s
  else complete .ok (emit (ts5 (BitVec.ofNat 33 s.ptsRaw) (BitVec.ofNat 4 pfx)) s)

/-- The effect of PESH_ENC (R230). -/
def peshEnc (s : State) : State := complete .ok (emit (hdrBytes s.hdr) s)

/-- The header a byte string begins with, or nothing where the string is shorter than the fixed section or than the
declared header length (R240, and the nested decode of R280). Only lengths are checked (R242). -/
def parseHdr (bs : List Byte) : Option PesHdr :=
  match bs with
  | f0 :: f1 :: hl :: rest =>
    if rest.length < hl.toNat then none else some { f0 := f0, f1 := f1, hl := hl, opt := rest.take hl.toNat }
  | _ => none

/-- The effect of PESH_DEC (R240, R241). -/
def peshDec (s : State) : State :=
  if s.inLenTooLarge then raise .invalidOperand s
  else
    match parseHdr s.input with
    | some h => complete .ok { writeHdr h s with outLen := 0 }
    | none => raise .malformedInput { s with hdrCtrl := HdrCtrl.default }

/-- PESH_TSENC (R211). -/
def execPeshTsenc (s : State) : Host.Outcome State Fault Refusal := .next (peshTsenc s)

/-- TS5_ENC (R220). -/
def execTs5Enc (pfx : Nat) (s : State) : Host.Outcome State Fault Refusal := .next (ts5Enc pfx s)

/-- PESH_ENC (R230). -/
def execPeshEnc (s : State) : Host.Outcome State Fault Refusal := .next (peshEnc s)

/-- PESH_DEC (R240). -/
def execPeshDec (s : State) : Host.Outcome State Fault Refusal := .next (peshDec s)

end Sys2Proof.Machine
end

