-- ==== Sys2Proof/Machine/PesPacket.lean ====
section
/-! DEFINITION. The PES packet builder: the packet format (R260 to R262), PES_BUILD_AUDIO (R264 to R271),
PES_BUILD_VIDEO (R272 to R276) and PES_DEC (R280 to R284). -/

namespace Sys2Proof.Machine

/-- The PES start code (R9, R260). -/
def startCode : List Byte := [0x00, 0x00, 0x01]

/-- P_ANNEXB_SC (R16). -/
def annexBStartCode : List Byte := [0x00, 0x00, 0x00, 0x01]

/-- `PesPacket(sid, H, payload)` (R262): UnrepresentableLength when everything after the length field exceeds 65535 bytes (R261). -/
def pesPacket (sid : Byte) (h : PesHdr) (payload : List Byte) : Except Status (List Byte) :=
  let len := (hdrBytes h).length + payload.length
  if 65535 < len then .error .unrepresentableLength
  else .ok (startCode ++ [sid] ++ be16 len ++ hdrBytes h ++ payload)

/-- `F_AUDIO_HDR(cfg, n)`: P_AUDIO_HDR_LEN opaque bytes (R20; log 7). -/
def audioHdr (p : Params) (cfg : Word) (n : Nat) : List Byte :=
  (List.range p.audioHdrLen).map fun i => Config.audioHdrByte cfg n i

/-- H_A, the header of the audio path: f0 = 0x84 sets the data-alignment flag, f1 carries the indicator (R264). -/
def audioHeader (ind : BitVec 2) (opt : List Byte) : PesHdr :=
  { f0 := 0x84, f1 := ind ++ 0#6, hl := BitVec.ofNat 8 opt.length, opt := opt }

/-- H_V, the header of the video path, its data-alignment flag P_VIDEO_DAI (R274). -/
def videoHeader (p : Params) (ind : BitVec 2) (opt : List Byte) : PesHdr :=
  { f0 := if p.videoDai then 0x84 else 0x80, f1 := ind ++ 0#6, hl := BitVec.ofNat 8 opt.length, opt := opt }

/-- The audio payload: the framing header, then the raw bytes (R265). -/
def audioPayload (s : State) : List Byte := audioHdr s.params s.audCfg s.inCount ++ s.input

/-- The effect of PES_BUILD_AUDIO (R270). The DTS is passed as not provided, whatever DTS_V holds (R264, R271). -/
def pesBuildAudio (s : State) : State :=
  if s.inLenTooLarge then raise .invalidOperand s
  else if s.cfgV = false then raise .missingConfiguration s
  else
    match timestampFields s s.ptsV false with
    | .error e => raise e s
    | .ok (ind, opt) =>
      match pesPacket s.streamId (audioHeader ind opt) (audioPayload s) with
      | .error e => raise e s
      | .ok pkt => complete .ok (emit pkt s)

/-- The loop of `AnnexB(f)` (R273); each turn uses at least 4 bytes, so `f.length` turns are enough. -/
def annexBLoop : Nat → List Byte → Option (List Byte)
  | _, [] => some []
  | k + 1, b0 :: b1 :: b2 :: b3 :: rest =>
    let n := beValue [b0, b1, b2, b3]
    if rest.length < n then none
    else
      match annexBLoop k (rest.drop n) with
      | some out => some (annexBStartCode ++ rest.take n ++ out)
      | none => none
  | _, _ => none

/-- `AnnexB(f)`: each 4-byte big-endian NAL length replaced by the start code; nothing for a truncated frame (R273). -/
def annexB (f : List Byte) : Option (List Byte) := annexBLoop f.length f

/-- What stands before the frame: on a key frame the AUD and the two parameter sets, else the non-IDR AUD (R272, R275). -/
def videoPreamble (s : State) : List Byte :=
  if s.cfgV then
    s.params.audIdr ++ annexBStartCode ++ memRead cfgBase s.spsLen.toNat s ++ annexBStartCode ++
      memRead (cfgBase + s.spsLen.toNat) s.ppsLen.toNat s
  else s.params.audNonIdr

/-- The effect of PES_BUILD_VIDEO (R275). -/
def pesBuildVideo (s : State) : State :=
  if s.inLenTooLarge then raise .invalidOperand s
  else if s.cfgV = true ∧ s.params.cfgSize < s.spsLen.toNat + s.ppsLen.toNat then raise .invalidOperand s
  else
    match timestampFields s s.ptsV s.dtsV with
    | .error e => raise e s
    | .ok (ind, opt) =>
      match annexB s.input with
      | none => raise .malformedInput s
      | some frame =>
        match pesPacket s.streamId (videoHeader s.params ind opt) (videoPreamble s ++ frame) with
        | .error e => raise e s
        | .ok pkt => complete .ok (emit pkt s)

/-- The effect of PES_DEC (R280): a failed nested header decode is logged and leaves HDR_DEFAULT (R283), the payload is
every byte after the header (R282), the length field is not checked (R284). -/
def pesDec (s : State) : State :=
  if s.inLenTooLarge then raise .invalidOperand s
  else if s.input.take 3 ≠ startCode then raise .invalidStartCode s
  else if s.inCount < 6 then raise .malformedInput s
  else
    let bs := s.input
    let s' := { s with pesdSid := bs.getD 3 0, pesdLen := BitVec.ofNat 16 (beValue ((bs.drop 4).take 2)) }
    let rest := bs.drop 6
    match parseHdr rest with
    | some h => complete .ok (emit (rest.drop (3 + h.hl.toNat)) (writeHdr h s'))
    | none => complete .ok (logEvent .malformedInput (emit (rest.drop 3) (writeHdr PesHdr.default s')))

/-- PES_BUILD_AUDIO (R270). -/
def execPesBuildAudio (s : State) : Host.Outcome State Fault Refusal := .next (pesBuildAudio s)

/-- PES_BUILD_VIDEO (R275). -/
def execPesBuildVideo (s : State) : Host.Outcome State Fault Refusal := .next (pesBuildVideo s)

/-- PES_DEC (R280). -/
def execPesDec (s : State) : Host.Outcome State Fault Refusal := .next (pesDec s)

end Sys2Proof.Machine
end

