-- ==== Sys2Proof/Machine/TsPacket.lean ====
section
/-! DEFINITION. The TS packet codec: the formats (R370 to R376), filling and serialization (R390 to R396), and the
commands TS_HDR_ENC, TS_HDR_DEC, PCR_ENC, TS_PKT_ENC and TS_PKT_DEC (R380 to R386, R400 to R413). -/

namespace Sys2Proof.Machine

/-- The sync byte (R9). -/
def syncByte : Byte := 0x47

/-- `TsHdrBytes`: the 4 header bytes of the fields of TSH (R371). -/
def tsHdrBytes (h : TsHeader) : List Byte :=
  [syncByte,
   BitVec.ofBool h.tei ++ BitVec.ofBool h.pusi ++ BitVec.ofBool h.prio ++ h.pid.extractLsb' 8 5,
   h.pid.extractLsb' 0 8,
   h.sc ++ BitVec.ofBool h.af ++ BitVec.ofBool h.pl ++ h.cc]

/-- The fields of header bytes 1, 2 and 3 (R372). -/
def tsHdrOfBytes (b1 b2 b3 : Byte) : TsHeader where
  tei := b1.getLsbD 7
  pusi := b1.getLsbD 6
  prio := b1.getLsbD 5
  pid := b1.extractLsb' 0 5 ++ b2
  sc := b3.extractLsb' 6 2
  af := b3.getLsbD 5
  pl := b3.getLsbD 4
  cc := b3.extractLsb' 0 4

/-- `PcrBytes(base, ext)`: base, six reserved bits 1, extension (R375). -/
def pcrBytes (base : BitVec 33) (ext : BitVec 9) : List Byte :=
  [base.extractLsb' 25 8, base.extractLsb' 17 8, base.extractLsb' 9 8, base.extractLsb' 1 8,
   base.extractLsb' 0 1 ++ 0b111111#6 ++ ext.extractLsb' 8 1,
   ext.extractLsb' 0 8]

/-- The PCR base of 6 bytes (R376). -/
def pcrBaseOf (b0 b1 b2 b3 b4 : Byte) : BitVec 33 := b0 ++ b1 ++ b2 ++ b3 ++ b4.extractLsb' 7 1

/-- The PCR extension of 6 bytes; the reserved bits are not checked (R376). -/
def pcrExtOf (b4 b5 : Byte) : BitVec 9 := b4.extractLsb' 0 1 ++ b5

/-- What `Fill` returns: bytes consumed, AF and PL after filling, the flags byte, the stuffing and the payload padding (R390). -/
structure Filled where
  w : Nat
  af : Bool
  fl : Byte
  pl : Bool
  stuff : Nat
  pad : Nat
deriving DecidableEq, Repr

/-- A result of `Fill`; PL = 1 iff the payload region is not empty (R394). -/
def Filled.of (w : Nat) (af : Bool) (fl : Byte) (stuff pad : Nat) : Filled :=
  { w := w, af := af, fl := fl, pl := decide (0 < w + pad), stuff := stuff, pad := pad }

/-- The adaptation-field bytes before stuffing: length, flags and, with the PCR flag, the PCR (R390). -/
def afOverhead (af : Bool) (fl : Byte) : Nat := if af then (if pcrFlag fl then 8 else 2) else 0

/-- `Fill(data, useAF, af0, fl0)`, the five cases, for `n` bytes of data offered (R390). -/
def fill (n : Nat) (useAF af0 : Bool) (fl0 : Byte) : Filled :=
  let fl := if af0 then fl0 else 0x00
  let space := 184 - afOverhead af0 fl
  if space ≤ n then Filled.of space af0 fl 0 0
  else if useAF && af0 then Filled.of n af0 fl (space - n) 0
  else if useAF && decide (n ≤ 182) then Filled.of n true fl (182 - n) 0
  else if useAF then Filled.of 182 true fl 0 0
  else Filled.of n af0 fl 0 (space - n)

/-- `compute()`: the adaptation-field length byte of the current content (R395). -/
def computeAfLen (f : Filled) : Nat := 1 + (if pcrFlag f.fl then 6 else 0) + f.stuff

/-- The adaptation field: length byte, flags byte, PCR, stuffing (R373, R396). -/
def afBytes (f : Filled) (base : BitVec 33) (ext : BitVec 9) : List Byte :=
  if f.af then
    [BitVec.ofNat 8 (computeAfLen f), f.fl] ++ (if pcrFlag f.fl then pcrBytes base ext else []) ++ ffs f.stuff
  else []

/-- `TsPacketBytes`: header with the AF and PL of `Fill`, adaptation field, data, payload padding (R396, R393). -/
def tsPacketBytes (h : TsHeader) (f : Filled) (data : List Byte) (base : BitVec 33) (ext : BitVec 9) : List Byte :=
  tsHdrBytes { h with af := f.af, pl := f.pl } ++ afBytes f base ext ++ data.take f.w ++ ffs f.pad

/-- The effect of TS_HDR_ENC (R380). -/
def tsHdrEnc (s : State) : State := complete .ok (emit (tsHdrBytes s.tsh) s)

/-- The effect of TS_HDR_DEC (R383). -/
def tsHdrDec (s : State) : State :=
  if s.inLenTooLarge then raise .invalidOperand s
  else
    match s.input with
    | b0 :: b1 :: b2 :: b3 :: _ =>
      if b0 = syncByte then complete .ok { s with tsh := tsHdrOfBytes b1 b2 b3, outLen := 0 }
      else raise .malformedInput { s with tsh := TsHeader.default }
    | _ => raise .malformedInput { s with tsh := TsHeader.default }

/-- The effect of PCR_ENC (R386). -/
def pcrEnc (s : State) : State := complete .ok (emit (pcrBytes s.pcrBase s.pcrExt) s)

/-- The effect of TS_PKT_ENC with its USE_AF operand (R400). An error also sets FILL_COUNT to 0 (R441). -/
def tsPktEnc (useAf : Bool) (s : State) : State :=
  if s.inLenTooLarge then raise .invalidOperand { s with fillCount := 0 }
  else if s.tsh.af = true ∧ optionalFieldFlags s.afFlags ≠ 0 then raise .invalidOperand { s with fillCount := 0 }
  else
    let f := fill s.inCount useAf s.tsh.af s.afFlags
    complete .ok
      { emit (tsPacketBytes s.tsh f s.input s.pcrBase s.pcrExt) s with
        fillCount := BitVec.ofNat 32 f.w
        tsh := { s.tsh with af := f.af, pl := f.pl } }

/-- `DecodeFail()` of TS_PKT_DEC: the zeroed structure, then MalformedInput (R410, R411). -/
def tsPktDecFail (s : State) : State :=
  raise .malformedInput
    { s with
      tsh := TsHeader.default, afLen := 0, afFlags := 0, pcrV := false
      pcrBaseLo := 0, pcrBaseHi := 0, pcrExt := 0 }

/-- The effect of TS_PKT_DEC (R410): a PCR is decoded when its flag is set and the field can hold it (R412). -/
def tsPktDec (s : State) : State :=
  if s.inLenTooLarge then raise .invalidOperand s
  else
    let b := memRead inBase (min s.inCount 188) s
    let h := tsHdrOfBytes (b.getD 1 0) (b.getD 2 0) (b.getD 3 0)
    let alen := if h.af then (b.getD 4 0).toNat else 0
    if s.inCount < 188 ∨ b.getD 0 0 ≠ syncByte then tsPktDecFail s
    else if 183 < alen then tsPktDecFail s
    else
      let fl := if h.af = true ∧ 1 ≤ alen then b.getD 5 0 else 0
      let hasPcr := decide (7 ≤ alen) && pcrFlag fl
      let base := if hasPcr then pcrBaseOf (b.getD 6 0) (b.getD 7 0) (b.getD 8 0) (b.getD 9 0) (b.getD 10 0) else 0
      let ext := if hasPcr then pcrExtOf (b.getD 10 0) (b.getD 11 0) else 0
      let off := if h.af then 5 + alen else 4
      let s' := { withPcrBase base s with
        tsh := h, afLen := BitVec.ofNat 8 alen, afFlags := fl, pcrV := hasPcr, pcrExt := ext }
      complete .ok (emit (if h.pl then b.drop off else []) s')

/-- TS_HDR_ENC (R380). -/
def execTsHdrEnc (s : State) : Host.Outcome State Fault Refusal := .next (tsHdrEnc s)

/-- TS_HDR_DEC (R383). -/
def execTsHdrDec (s : State) : Host.Outcome State Fault Refusal := .next (tsHdrDec s)

/-- PCR_ENC (R386). -/
def execPcrEnc (s : State) : Host.Outcome State Fault Refusal := .next (pcrEnc s)

/-- TS_PKT_ENC (R400). -/
def execTsPktEnc (useAf : Bool) (s : State) : Host.Outcome State Fault Refusal := .next (tsPktEnc useAf s)

/-- TS_PKT_DEC (R410). -/
def execTsPktDec (s : State) : Host.Outcome State Fault Refusal := .next (tsPktDec s)

end Sys2Proof.Machine
end

