-- ==== Sys2Proof/Machine/TsSegment.lean ====
section
/-! DEFINITION. The TS segmentation engine: the finite-state machine of R322, the packet count of R333 and TS_SEGMENT (R330). -/

namespace Sys2Proof.Machine

/-- The states of the segmentation FSM (R71, R322). -/
inductive SegState where
  | first
  | middle
  | tail
  | splitA
  | splitB
  | fin
deriving DecidableEq, Repr

/-- What the FSM is run on: the payload P and the operands PID, PCR_V, PCR_BASE, PCR_EXT (R320). -/
structure SegCtx where
  payload : List Byte
  pid : BitVec 13
  pcrV : Bool
  base : BitVec 33
  ext : BitVec 9
deriving DecidableEq, Repr

/-- The FSM inside one ENGINE step (R71): its state, the cursor, the remainder of R327, the running continuity counter,
the packet index and the packets built so far. -/
structure Seg where
  st : SegState
  pos : Nat
  r : Nat
  cc : BitVec 4
  k : Nat
  out : List (List Byte)
deriving DecidableEq, Repr

/-- The FSM before its first transition: cc starts at TSH.CC (R325). -/
def Seg.start (cc : BitVec 4) : Seg := { st := .first, pos := 0, r := 0, cc := cc, k := 0, out := [] }

/-- The header fields of a packet of TS_SEGMENT before filling (R321). -/
def segHeader (c : SegCtx) (pusi : Bool) (cc : BitVec 4) : TsHeader :=
  { tei := false, pusi := pusi, prio := false, pid := c.pid, sc := 0, af := false, pl := false, cc := cc }

/-- `Emit(pusi, af0, flags, data, useAF)` (R326): one packet appended, k and cc advanced (cc only after PL = 1, R325). -/
def segEmit (c : SegCtx) (pusi af0 : Bool) (flags : Byte) (data : List Byte) (useAF : Bool) (g : Seg) : Seg :=
  let f := fill data.length useAF af0 flags
  { g with
    out := g.out ++ [tsPacketBytes (segHeader c pusi g.cc) f data c.base c.ext]
    k := g.k + 1
    cc := if f.pl then g.cc + 1 else g.cc }

/-- How many bytes the first packet consumes, the `w` of R323: what `Fill` consumes of P. -/
def segFirstCount (c : SegCtx) : Nat :=
  (fill c.payload.length true c.pcrV (if c.pcrV then 0x10 else 0x00)).w

/-- One transition of the FSM (the table of R322). -/
def segStep (c : SegCtx) (g : Seg) : Seg :=
  let len := c.payload.length
  match g.st with
  | .first =>
    let w := segFirstCount c
    { segEmit c true c.pcrV (if c.pcrV then 0x10 else 0x00) c.payload true g with
      st := .middle, pos := w, r := (len - w) % 184 }
  | .middle =>
    if 184 ≤ len - g.pos then
      { segEmit c false false 0x00 ((c.payload.drop g.pos).take 184) false g with st := .middle, pos := g.pos + 184 }
    else if g.r = 0 then { g with st := .fin }
    else if g.r = 183 then { g with st := .splitA }
    else { g with st := .tail }
  | .tail =>
    { segEmit c false false 0x00 (c.payload.drop (len - g.r)) true g with st := .fin, pos := len }
  | .splitA =>
    { segEmit c false false 0x00 ((c.payload.drop (len - 183)).take 182) true g with st := .splitB, pos := len - 1 }
  | .splitB =>
    { segEmit c false false 0x00 (c.payload.drop (len - 1)) true g with st := .fin, pos := len }
  | .fin => g

/-- The FSM run until END, at most `n` transitions. -/
def segRun (c : SegCtx) : Nat → Seg → Seg
  | 0, g => g
  | n + 1, g => if g.st = .fin then g else segRun c n (segStep c g)

/-- Enough transitions for a payload of `len` bytes: the first packet, the middle packets, the way out of MIDDLE and at
most two trailing packets (R322). -/
def segFuel (len : Nat) : Nat := len / 184 + 5

/-- The FSM of R322 run from FIRST to END. -/
def segment (c : SegCtx) (cc : BitVec 4) : Seg := segRun c (segFuel c.payload.length) (Seg.start cc)

/-- `SegCount(L, pcr)` (R333). -/
def segCount (len : Nat) (pcr : Bool) : Nat :=
  let cap := if pcr then 176 else 184
  let w := if cap ≤ len then cap else if pcr then len else if len ≤ 182 then len else 182
  let rest := len - w
  let r := rest % 184
  1 + rest / 184 + (if r = 0 then 0 else if r = 183 then 2 else 1)

/-- The operands of TS_SEGMENT (R320, R330). -/
def State.segCtx (s : State) : SegCtx :=
  { payload := s.input, pid := s.tsh.pid, pcrV := s.pcrV, base := s.pcrBase, ext := s.pcrExt }

/-- The effect of TS_SEGMENT (R330). An error also sets PKT_COUNT to 0 (R441). -/
def tsSegment (s : State) : State :=
  let n := segCount s.inCount s.pcrV
  if s.inLenTooLarge then raise .invalidOperand { s with pktCount := 0 }
  else if s.params.outSize < 188 * n then raise .bufferOverflow { s with pktCount := 0 }
  else
    let g := segment s.segCtx s.tsh.cc
    complete .ok
      { emit g.out.flatten s with
        pktCount := BitVec.ofNat 32 n
        tsh := { s.tsh with cc := g.cc } }

/-- TS_SEGMENT (R330). -/
def execTsSegment (s : State) : Host.Outcome State Fault Refusal := .next (tsSegment s)

end Sys2Proof.Machine
end

