-- ==== Sys2Proof/Machine/Dispatch.lean ====
section
/-! DEFINITION. The ENGINE step of each command (R440), one arm per row of the opcode table (R144). -/

namespace Sys2Proof.Machine

def exec (i : Instr) (s : State) : Host.Outcome State Fault Refusal :=
  match i with
  -- PES header codec (R211 to R240)
  | .peshTsenc => Sys2Proof.Machine.execPeshTsenc s
  | .ts5Enc pfx => Sys2Proof.Machine.execTs5Enc pfx s
  | .peshEnc => Sys2Proof.Machine.execPeshEnc s
  | .peshDec => Sys2Proof.Machine.execPeshDec s
  -- PES packet builder (R270 to R280)
  | .pesBuildAudio => Sys2Proof.Machine.execPesBuildAudio s
  | .pesBuildVideo => Sys2Proof.Machine.execPesBuildVideo s
  | .pesDec => Sys2Proof.Machine.execPesDec s
  -- TS segmentation engine (R330)
  | .tsSegment => Sys2Proof.Machine.execTsSegment s
  -- TS packet codec (R380 to R410)
  | .tsHdrEnc => Sys2Proof.Machine.execTsHdrEnc s
  | .tsHdrDec => Sys2Proof.Machine.execTsHdrDec s
  | .pcrEnc => Sys2Proof.Machine.execPcrEnc s
  | .tsPktEnc useAf => Sys2Proof.Machine.execTsPktEnc useAf s
  | .tsPktDec => Sys2Proof.Machine.execTsPktDec s

end Sys2Proof.Machine
end

