-- ==== Sys2Proof/Machine/Registers.lean ====
section
/-! DEFINITION. The register map (R32): offsets, the word a host read returns, and what a host write stores. -/

namespace Sys2Proof.Machine

/-- The registers of R32, each under its own name. -/
inductive Reg where
  | id | version | ctrl | status | cmd
  | inLen | outLen | fillCount | pktCount | diag
  | tsValid | timescale
  | ptsLo | ptsHi | dtsLo | dtsHi | t0Lo | t0Hi
  | streamId | cfgCtrl | audCfg | spsLen | ppsLen | pesdSid | pesdLen
  | hdrCtrl | tsh | afFlags | afLen | pcrCtrl | pcrBaseLo | pcrBaseHi | pcrExt
deriving DecidableEq, Repr

/-- The window offset of a register (R32). -/
def Reg.offset : Reg → Nat
  | .id => 0x000
  | .version => 0x004
  | .ctrl => 0x008
  | .status => 0x00C
  | .cmd => 0x010
  | .inLen => 0x014
  | .outLen => 0x018
  | .fillCount => 0x01C
  | .pktCount => 0x020
  | .diag => 0x024
  | .tsValid => 0x030
  | .timescale => 0x034
  | .ptsLo => 0x038
  | .ptsHi => 0x03C
  | .dtsLo => 0x040
  | .dtsHi => 0x044
  | .t0Lo => 0x048
  | .t0Hi => 0x04C
  | .streamId => 0x050
  | .cfgCtrl => 0x054
  | .audCfg => 0x058
  | .spsLen => 0x05C
  | .ppsLen => 0x060
  | .pesdSid => 0x064
  | .pesdLen => 0x068
  | .hdrCtrl => 0x070
  | .tsh => 0x080
  | .afFlags => 0x084
  | .afLen => 0x088
  | .pcrCtrl => 0x08C
  | .pcrBaseLo => 0x090
  | .pcrBaseHi => 0x094
  | .pcrExt => 0x098

/-- The register at a window offset; nothing at a reserved offset (R32, R43). -/
def Reg.ofOffset : Nat → Option Reg
  | 0x000 => some .id
  | 0x004 => some .version
  | 0x008 => some .ctrl
  | 0x00C => some .status
  | 0x010 => some .cmd
  | 0x014 => some .inLen
  | 0x018 => some .outLen
  | 0x01C => some .fillCount
  | 0x020 => some .pktCount
  | 0x024 => some .diag
  | 0x030 => some .tsValid
  | 0x034 => some .timescale
  | 0x038 => some .ptsLo
  | 0x03C => some .ptsHi
  | 0x040 => some .dtsLo
  | 0x044 => some .dtsHi
  | 0x048 => some .t0Lo
  | 0x04C => some .t0Hi
  | 0x050 => some .streamId
  | 0x054 => some .cfgCtrl
  | 0x058 => some .audCfg
  | 0x05C => some .spsLen
  | 0x060 => some .ppsLen
  | 0x064 => some .pesdSid
  | 0x068 => some .pesdLen
  | 0x070 => some .hdrCtrl
  | 0x080 => some .tsh
  | 0x084 => some .afFlags
  | 0x088 => some .afLen
  | 0x08C => some .pcrCtrl
  | 0x090 => some .pcrBaseLo
  | 0x094 => some .pcrBaseHi
  | 0x098 => some .pcrExt
  | _ => none

/-- The registers a host may read while STATUS.BUSY = 1 (R73). -/
def Reg.liveWhileBusy : Reg → Bool
  | .id | .version | .ctrl | .status | .cmd => true
  | _ => false

/-- A one-bit field at bit `i` of a word whose other bits are 0. -/
def bitWord (b : Bool) (i : Nat) : Word := (BitVec.ofBool b).setWidth 32 <<< i

/-- The STATUS word (R36). -/
def State.statusWord (s : State) : Word :=
  bitWord s.busy 0 ||| bitWord s.done 1 ||| bitWord s.berr 2 ||| (s.err.setWidth 32 <<< 4)

/-- The HDR_CTRL word (R57). -/
def HdrCtrl.word (h : HdrCtrl) : Word := 0#8 ++ h.hl ++ h.f1 ++ h.f0

/-- HDR_CTRL of a written word (R57). -/
def HdrCtrl.ofWord (v : Word) : HdrCtrl where
  f0 := v.extractLsb' 0 8
  f1 := v.extractLsb' 8 8
  hl := v.extractLsb' 16 8

/-- The TSH word, by the bit positions of R62: bits 31:24 are SYNC, always 0x47. -/
def TsHeader.word (h : TsHeader) : Word :=
  0x47#8 ++ BitVec.ofBool h.tei ++ BitVec.ofBool h.pusi ++ BitVec.ofBool h.prio ++ h.pid ++ h.sc ++
    BitVec.ofBool h.af ++ BitVec.ofBool h.pl ++ h.cc

/-- TSH of a written word; bits 31:24 are ignored (R62). -/
def TsHeader.ofWord (v : Word) : TsHeader where
  tei := v.getLsbD 23
  pusi := v.getLsbD 22
  prio := v.getLsbD 21
  pid := v.extractLsb' 8 13
  sc := v.extractLsb' 6 2
  af := v.getLsbD 5
  pl := v.getLsbD 4
  cc := v.extractLsb' 0 4

/-- The word a host read of a register returns; reserved bits read 0 (R32, R102). -/
def readReg (r : Reg) (s : State) : Word :=
  match r with
  | .id => 0x5453504B
  | .version => 0x00010000
  | .ctrl => bitWord s.irqEn 0
  | .status => s.statusWord
  | .cmd => s.cmd
  | .inLen => s.inLen
  | .outLen => s.outLen
  | .fillCount => s.fillCount
  | .pktCount => s.pktCount
  | .diag => s.diag.count ++ 0#12 ++ s.diag.last
  | .tsValid => bitWord s.ptsV 0 ||| bitWord s.dtsV 1
  | .timescale => s.timescale
  | .ptsLo => s.ptsLo
  | .ptsHi => s.ptsHi
  | .dtsLo => s.dtsLo
  | .dtsHi => s.dtsHi
  | .t0Lo => s.t0Lo
  | .t0Hi => s.t0Hi
  | .streamId => s.streamId.setWidth 32
  | .cfgCtrl => bitWord s.cfgV 0
  | .audCfg => s.audCfg
  | .spsLen => s.spsLen
  | .ppsLen => s.ppsLen
  | .pesdSid => s.pesdSid.setWidth 32
  | .pesdLen => s.pesdLen.setWidth 32
  | .hdrCtrl => s.hdrCtrl.word
  | .tsh => s.tsh.word
  | .afFlags => s.afFlags.setWidth 32
  | .afLen => s.afLen.setWidth 32
  | .pcrCtrl => bitWord s.pcrV 0
  | .pcrBaseLo => s.pcrBaseLo
  | .pcrBaseHi => s.pcrBaseHi.setWidth 32
  | .pcrExt => s.pcrExt.setWidth 32

/-- A write of STATUS: 1 clears DONE or BERR, everything else is ignored (R36). -/
def writeStatus (v : Word) (s : State) : State :=
  { s with done := s.done && !v.getLsbD 1, berr := s.berr && !v.getLsbD 2 }

/-- A write of CTRL: SRST = 1 is the soft reset, whatever bit 0 holds; else IRQ_EN is stored (R35, R482). -/
def writeCtrl (v : Word) (s : State) : State :=
  if v.getLsbD 1 then softReset s else { s with irqEn := v.getLsbD 0 }

/-- An accepted host write of a register: the writable fields are stored (R102); a write of a read-only register is
ignored (R32); CMD, CTRL, STATUS and DIAG have the side effects of R107. -/
def writeReg (r : Reg) (v : Word) (s : State) : State :=
  match r with
  | .id => s
  | .version => s
  | .ctrl => writeCtrl v s
  | .status => writeStatus v s
  | .cmd => acceptCommand v s
  | .inLen => { s with inLen := v }
  | .outLen => s
  | .fillCount => s
  | .pktCount => s
  | .diag => { s with diag := { last := 0, count := 0 } }
  | .tsValid => { s with ptsV := v.getLsbD 0, dtsV := v.getLsbD 1 }
  | .timescale => { s with timescale := v }
  | .ptsLo => { s with ptsLo := v }
  | .ptsHi => { s with ptsHi := v }
  | .dtsLo => { s with dtsLo := v }
  | .dtsHi => { s with dtsHi := v }
  | .t0Lo => { s with t0Lo := v }
  | .t0Hi => { s with t0Hi := v }
  | .streamId => { s with streamId := v.extractLsb' 0 8 }
  | .cfgCtrl => { s with cfgV := v.getLsbD 0 }
  | .audCfg => { s with audCfg := v }
  | .spsLen => { s with spsLen := v }
  | .ppsLen => { s with ppsLen := v }
  | .pesdSid => s
  | .pesdLen => s
  | .hdrCtrl => { s with hdrCtrl := HdrCtrl.ofWord v }
  | .tsh => { s with tsh := TsHeader.ofWord v }
  | .afFlags => { s with afFlags := v.extractLsb' 0 8 }
  | .afLen => s
  | .pcrCtrl => { s with pcrV := v.getLsbD 0 }
  | .pcrBaseLo => { s with pcrBaseLo := v }
  | .pcrBaseHi => { s with pcrBaseHi := v.extractLsb' 0 1 }
  | .pcrExt => { s with pcrExt := v.extractLsb' 0 9 }

end Sys2Proof.Machine
end

