-- ==== Sys2Proof/Machine/HostPort.lean ====
section
/-! DEFINITION. The host port: accepted and rejected accesses (R102 to R106), reads while BUSY (R73), and one step of the
host (R148, R149) or of the platform's reset input (R480). -/

namespace Sys2Proof.Machine

/-- The access reaches something, whatever BUSY is: it is naturally aligned, and it is a 32-bit access at a register's
offset or every byte it covers is a byte of a buffer (R102, R103, R104; log 11). -/
def accessValid (p : Params) (w : Width) (off : Nat) : Bool :=
  (off % w.bytes == 0) &&
    match Reg.ofOffset off with
    | some _ => w == .w32
    | none => (List.range w.bytes).all fun i => bufferByte p (off + i)

/-- The writes that R106 refuses: while BUSY, all but those of CTRL and STATUS. -/
def writeBlocked (s : State) (off : Nat) : Bool :=
  s.busy && decide (off ≠ Reg.ctrl.offset) && decide (off ≠ Reg.status.offset)

/-- The effect of a rejected access: STATUS.BERR <- 1 and nothing else (R104). -/
def rejectAccess (s : State) : State := { s with berr := true }

/-- The low `w` bytes of a word. -/
def lowBytes (w : Width) (v : Word) : Word := BitVec.ofNat 32 (v.toNat % 2 ^ (8 * w.bytes))

/-- A read of something the engine may be writing returns an unspecified value, drawn afresh (R73; log 3). -/
def unspecifiedRead (w : Width) (s : State) : State × BusResponse :=
  ({ s with draws := s.draws + 1 }, { error := false, data := some (lowBytes w (Config.freeRead s.draws)) })

/-- A host read (R102, R103, R104, R73). -/
def busRead (w : Width) (off : Nat) (s : State) : State × BusResponse :=
  if accessValid s.params w off = false then (rejectAccess s, { error := true, data := some 0 })
  else
    match Reg.ofOffset off with
    | some r =>
      if s.busy && !r.liveWhileBusy then unspecifiedRead w s
      else (s, { error := false, data := some (readReg r s) })
    | none =>
      if s.busy then unspecifiedRead w s
      else (s, { error := false, data := some (BitVec.ofNat 32 (leValue (memRead off w.bytes s))) })

/-- A host write (R102, R103, R104, R106). -/
def busWrite (w : Width) (off : Nat) (v : Word) (s : State) : State × BusResponse :=
  if accessValid s.params w off = false ∨ writeBlocked s off = true then (rejectAccess s, { error := true, data := none })
  else
    match Reg.ofOffset off with
    | some r => (writeReg r v s, { error := false, data := none })
    | none => (memWrite off (leBytes w.bytes v) s, { error := false, data := none })

/-- The response of an access reaches the host (R110). -/
def respond (a : State × BusResponse) : State := { a.1 with resps := a.2 :: a.1.resps }

/-- The host goes on with `ops` before what it had still to do. -/
def pushHost (ops : List HostOp) (s : State) : State := { s with host := ops ++ s.host }

/-- One turn of WAIT: `R32 STATUS`, and WAIT again while the word has BUSY = 1 (R149). -/
def hostWait (s : State) : State :=
  pushHost (if s.busy then [.wait] else []) (respond (busRead .w32 Reg.status.offset s))

/-- The first half of a turn of COPY: `R8 src → b`, with `W8 dst, b` to follow (R149). -/
def hostCopyRead (src dst : Nat) (s : State) : State :=
  let a := busRead .w8 src s
  pushHost [.write .w8 dst (a.2.data.getD 0)] (respond a)

/-- One event from outside, already taken off the host list: a bus access (R148), a turn of WAIT or COPY (R149), or the
reset input (R480). An offset outside the window is no access of this block (R100; log 10). -/
def hostStep (op : HostOp) (s : State) : Host.Outcome State Fault Refusal :=
  match op with
  | .write w off v => if windowSize ≤ off then .fault (.outsideWindow off) else .next (respond (busWrite w off v s))
  | .read w off => if windowSize ≤ off then .fault (.outsideWindow off) else .next (respond (busRead w off s))
  | .wait => .next (hostWait s)
  | .copyByte src dst => if windowSize ≤ src then .fault (.outsideWindow src) else .next (hostCopyRead src dst s)
  | .powerOn => .next (powerOnReset s)

end Sys2Proof.Machine
end

