-- ==== Sys2Proof/Machine/Engine.lean ====
section
/-! DEFINITION. The ENGINE step (R440), the order of the two agents (R110, R492) and one event of the block. -/

namespace Sys2Proof.Machine

/-- The ENGINE step of a pending command: the latched word is decoded; an illegal word completes with IllegalCommand (R440, R143). -/
def engineStep (s : State) : Host.Outcome State Fault Refusal :=
  match decode s.cmd with
  | .error _ => .next (illegalCommand s)
  | .ok i => exec i s

/-- The next event is the ENGINE step: a command is pending and its free number of host accesses has passed, or the host
makes no further access (R440, R492; log 4). -/
def engineTurn (s : State) : Bool := s.busy && (decide (s.delay = 0) || s.host.isEmpty)

/-- The next event is the host's: its first operation is taken off the list and one access of the delay has passed. -/
def hostTurn (op : HostOp) (rest : List HostOp) (s : State) : Host.Outcome State Fault Refusal :=
  hostStep op { s with host := rest, delay := s.delay - 1 }

/-- One event (R110): the ENGINE step, or the next event from outside, or, with neither, the idle block, whose state
persists (R455). -/
def nextEvent (s : State) : Host.Outcome State Fault Refusal :=
  if engineTurn s then engineStep s
  else
    match s.host with
    | [] => .next s
    | op :: rest => hostTurn op rest s

/-- The command word of a table row's bits, made pending with its ENGINE step next: the state an accepted write of CMD
leaves when no host access passes before the step (R37, R70; log 5). -/
def placeCommand (nbits w : Nat) (s : State) : State :=
  { latchCommand (BitVec.ofNat 32 (w % 2 ^ nbits)) s with delay := 0 }

end Sys2Proof.Machine
end

