-- ==== Sys2Proof/Machine/Step.lean ====
section
/-! DEFINITION. One step of the block, and the placing of a command where the step takes it. -/

namespace Sys2Proof.Machine

/-- One event of the block (R110, R440). -/
def step (s : State) : Host.Outcome State Fault Refusal := nextEvent s

/-- The state with a table row's word latched in CMD and pending, so that the next step runs it (R70; log 5). -/
def State.withFetchWord (s : State) (nbits w : Nat) : State := placeCommand nbits w s

end Sys2Proof.Machine
end

