-- ==== Sys2Proof/Machine/HostProgram.lean ====
section
/-! DEFINITION. The pseudo-operations of a host program and their expansions (R149); WAIT is a host operation of its own. -/

namespace Sys2Proof.Machine

/-- The register pairs of `W64` (R149). -/
inductive RegPair where
  | pts
  | dts
  | t0
  | pcrBase
deriving DecidableEq, Repr

/-- X_LO of a register pair. -/
def RegPair.lo : RegPair → Reg
  | .pts => .ptsLo
  | .dts => .dtsLo
  | .t0 => .t0Lo
  | .pcrBase => .pcrBaseLo

/-- X_HI of a register pair. -/
def RegPair.hi : RegPair → Reg
  | .pts => .ptsHi
  | .dts => .dtsHi
  | .t0 => .t0Hi
  | .pcrBase => .pcrBaseHi

/-- `W32 off, v` on a register. -/
def hostW32 (r : Reg) (v : Word) : HostOp := .write .w32 r.offset v

/-- `ISSUE MNEM`: the command word written to CMD (R149). -/
def hostIssue (i : Instr) : List HostOp := [hostW32 .cmd (encode i)]

/-- `ACK`: clears DONE (R149). -/
def hostAck : List HostOp := [hostW32 .status 0x00000002]

/-- `W64 X, v`: the low word, then the high word (R149). -/
def hostW64 (x : RegPair) (v : BitVec 64) : List HostOp :=
  [hostW32 x.lo (v.extractLsb' 0 32), hostW32 x.hi (v.extractLsb' 32 32)]

/-- `WBYTES off, bs` (R149). -/
def hostWBytes : Nat → List Byte → List HostOp
  | _, [] => []
  | off, b :: bs => .write .w8 off (b.setWidth 32) :: hostWBytes (off + 1) bs

/-- `RBYTES off, n` (R149); the bytes read are the responses. -/
def hostRBytes (off n : Nat) : List HostOp := (List.range n).map fun i => .read .w8 (off + i)

/-- `COPY src, dst, n` (R149). -/
def hostCopy (src dst n : Nat) : List HostOp := (List.range n).map fun i => .copyByte (src + i) (dst + i)

end Sys2Proof.Machine
end

