-- ==== Sys2Proof/Safety.lean ====
section
/-! DEFINITION. The terms claims are stated in: well-formed parameters, the invariant of the block, what a byte string
stored in a buffer means, the rejected accesses of R104, and the parts of a TS packet. -/

namespace Sys2Proof

/-- The parameters meet R10's size constraint and the buffers fit their regions (R101). -/
def Params.wf (p : Params) : Bool :=
  decide (65541 ≤ p.inSize) && decide (p.inSize ≤ 0x20000) &&
    decide (65541 ≤ p.outSize) && decide (188 * (p.inSize / 184 + 3) ≤ p.outSize) && decide (p.outSize ≤ 0x40000) &&
    decide (p.cfgSize ≤ 0x1000)

/-- The parameters have the spec's buffer sizes (R10). -/
def Params.defaultSizes (p : Params) : Prop := p.inSize = 131072 ∧ p.outSize = 262144 ∧ p.cfgSize = 4096

/-- The commands that can complete with MalformedInput or log a failed nested decode (R42). -/
def Instr.logs : Instr → Bool
  | .peshDec | .pesBuildVideo | .pesDec | .tsHdrDec | .tsPktDec => true
  | _ => false

/-- TS_PKT_ENC, the command that writes FILL_COUNT (R146, R441). -/
def Instr.fills : Instr → Bool
  | .tsPktEnc _ => true
  | _ => false

/-- The commands that write HDR_OPT (R146). -/
def Instr.writesHdrOpt : Instr → Bool
  | .peshTsenc | .peshDec | .pesDec => true
  | _ => false

/-- The commands that emit to OUT_BUF: all but the three whose row of R146 has no OUT_BUF. -/
def Instr.emits : Instr → Bool
  | .peshTsenc | .peshDec | .tsHdrDec => false
  | _ => true

end Sys2Proof

namespace Sys2Proof.Machine

/-- Every listed byte is a byte of a buffer (R101). -/
def Memory.inBuffers (p : Params) (m : Memory) : Bool := m.all fun c => bufferByte p c.1

/-- What every step keeps. -/
structure Inv (s : State) : Prop where
  /-- The parameters meet R10. -/
  params_wf : s.params.wf = true
  /-- The memory is in canonical form. -/
  mem_wf : Memory.wf s.mem = true
  /-- No byte outside the buffers is listed: neither agent ever writes there (R104, R109). -/
  mem_inBuffers : Memory.inBuffers s.params s.mem = true
  /-- DONE is never set while a command is pending (R36, R37). -/
  busy_not_done : s.busy = true → s.done = false
  /-- The codes 10 to 15 are never written (R430). -/
  err_le : s.err.toNat ≤ 9
  /-- DIAG logs MalformedInput only, and LAST is 0 iff nothing is logged (R42). -/
  diag_logged : (s.diag.last = 0 ∧ s.diag.count = 0) ∨ (s.diag.last = 1 ∧ s.diag.count ≠ 0)
  /-- OUT_LEN counts bytes of OUT_BUF (R39). -/
  outLen_le : s.outLen.toNat ≤ s.params.outSize
  /-- FILL_COUNT is at most the 184 bytes of a data area (R40). -/
  fillCount_le : s.fillCount.toNat ≤ 184
  /-- The packets PKT_COUNT counts fit OUT_BUF (R41). -/
  pktCount_le : 188 * s.pktCount.toNat ≤ s.params.outSize
  /-- AF_LEN is at most 183 (R64, R410). -/
  afLen_le : s.afLen.toNat ≤ 183
  /-- The draws in use are old ones, so that a fresh draw is a new one. -/
  memDraw_lt : s.memDraw < s.draws
  outDraw_lt : s.outDraw < s.draws

/-- `t` reads as `s` but for the byte string `bs` stored from the window offset `base` on. -/
def StoresAt (s t : State) (base : Nat) (bs : List Byte) : Prop :=
  (∀ i, i < bs.length → t.byteAt (base + i) = bs.getD i 0) ∧
    ∀ a, a < base ∨ base + bs.length ≤ a → t.byteAt a = s.byteAt a

/-- HDR_CTRL as command `i` may leave it (R146): PESH_TSENC writes PTS_DTS and HL, the two decoders all of it. -/
def hdrCtrlWritten (old new : HdrCtrl) : Instr → HdrCtrl
  | .peshTsenc => { old.withPtsDts new.ptsDts with hl := new.hl }
  | .peshDec | .pesDec => new
  | _ => old

/-- TSH as command `i` may leave it (R146): TS_SEGMENT writes CC, TS_PKT_ENC AF and PL, the two decoders all of it. -/
def tshWritten (old new : TsHeader) : Instr → TsHeader
  | .tsSegment => { old with cc := new.cc }
  | .tsPktEnc _ => { old with af := new.af, pl := new.pl }
  | .tsHdrDec | .tsPktDec => new
  | _ => old

/-- The state `s` with what the table of R146 lets command `i` write taken from `t`, its status and OUT_LEN (R440) and the
log (R42) among them: every other field is that of `s`. Which bytes of the buffers `i` writes is `byteWritten`. -/
def takeWritten (i : Instr) (s t : State) : State :=
  { s with
    busy := t.busy
    done := t.done
    err := t.err
    outLen := t.outLen
    hdrCtrl := hdrCtrlWritten s.hdrCtrl t.hdrCtrl i
    tsh := tshWritten s.tsh t.tsh i
    diag := if i.logs then t.diag else s.diag
    pesdSid := if i = .pesDec then t.pesdSid else s.pesdSid
    pesdLen := if i = .pesDec then t.pesdLen else s.pesdLen
    pktCount := if i = .tsSegment then t.pktCount else s.pktCount
    fillCount := if i.fills then t.fillCount else s.fillCount
    afFlags := if i = .tsPktDec then t.afFlags else s.afFlags
    afLen := if i = .tsPktDec then t.afLen else s.afLen
    pcrV := if i = .tsPktDec then t.pcrV else s.pcrV
    pcrBaseLo := if i = .tsPktDec then t.pcrBaseLo else s.pcrBaseLo
    pcrBaseHi := if i = .tsPktDec then t.pcrBaseHi else s.pcrBaseHi
    pcrExt := if i = .tsPktDec then t.pcrExt else s.pcrExt
    mem := if i = .tsHdrDec then s.mem else t.mem }

/-- Offset `a` is one of the bytes that command `i` has stored when it leaves `t`: with status OK, the HL bytes of HDR_OPT
that `HDR <- H` stores (R201, R211) and the OUT_LEN bytes of OUT_BUF that `emit` stores (R23, R109), each for the commands
whose row of R146 has the buffer; on an error none (R441). -/
def byteWritten (i : Instr) (t : State) (a : Nat) : Bool :=
  decide (t.err = 0) &&
    (i.writesHdrOpt && decide (hdrOptBase ≤ a ∧ a < hdrOptBase + t.hdrCtrl.hl.toNat) ||
      i.emits && decide (outBase ≤ a ∧ a < outBase + t.outLen.toNat))

/-- Every byte of every buffer reads the same. -/
def SameBytes (s t : State) : Prop := ∀ a, t.byteAt a = s.byteAt a

/-- Every byte outside the OUT_BUF region reads the same. -/
def SameBytesOutsideOut (s t : State) : Prop := ∀ a, inOutRegion a = false → t.byteAt a = s.byteAt a

/-- The accesses R104 rejects whatever BUSY is, for the spec's buffer sizes: not naturally aligned, a reserved register
offset or a register with a width other than 32 bits, or a reserved range of R101. -/
def AccessRejected (w : Width) (off : Nat) : Prop :=
  off % w.bytes ≠ 0 ∨ (off < 0x100 ∧ ((∀ r : Reg, r.offset ≠ off) ∨ w ≠ .w32)) ∨
    (0x200 ≤ off ∧ off < 0x1000) ∨ (0x2000 ≤ off ∧ off < 0x20000)

/-- The writable bits of a register without side effects (R32 to R67); 0 for a read-only register. -/
def Reg.writeMask : Reg → Word
  | .inLen | .timescale | .ptsLo | .ptsHi | .dtsLo | .dtsHi | .t0Lo | .t0Hi => 0xFFFFFFFF
  | .audCfg | .spsLen | .ppsLen | .pcrBaseLo => 0xFFFFFFFF
  | .tsValid => 0x00000003
  | .streamId | .afFlags => 0x000000FF
  | .cfgCtrl | .pcrCtrl | .pcrBaseHi => 0x00000001
  | .hdrCtrl | .tsh => 0x00FFFFFF
  | .pcrExt => 0x000001FF
  | .id | .version | .outLen | .fillCount | .pktCount | .pesdSid | .pesdLen | .afLen => 0x00000000
  | .ctrl | .status | .cmd | .diag => 0x00000000

/-- The registers whose write has a side effect beyond storing (R107). -/
def Reg.hasWriteEffect : Reg → Bool
  | .ctrl | .status | .cmd | .diag => true
  | _ => false

/-- The big-endian bytes of a 4-byte number, a NAL length prefix (R17). -/
def be32 (n : Nat) : List Byte :=
  [BitVec.ofNat 8 (n / 2 ^ 24), BitVec.ofNat 8 (n / 2 ^ 16), BitVec.ofNat 8 (n / 2 ^ 8), BitVec.ofNat 8 n]

/-- A frame of length-prefixed NAL units (R273). -/
def avccFrame (nals : List (List Byte)) : List Byte := nals.flatMap fun n => be32 n.length ++ n

/-- The same frame with start codes (R273, R16). -/
def startCodeFrame (nals : List (List Byte)) : List Byte := nals.flatMap fun n => [0x00, 0x00, 0x00, 0x01] ++ n

/-- Every NAL is short enough for its 4-byte length prefix. -/
def nalsFit (nals : List (List Byte)) : Prop := ∀ n ∈ nals, n.length < 2 ^ 32

/-- Packet number `j` of the packets in OUT_BUF (R320). -/
def packetAt (j : Nat) (t : State) : List Byte := memRead (outBase + 188 * j) 188 t

/-- The header fields of a TS packet (R372). -/
def packetHeader (pkt : List Byte) : TsHeader := tsHdrOfBytes (pkt.getD 1 0) (pkt.getD 2 0) (pkt.getD 3 0)

/-- The payload region of a TS packet: with PL = 1 the bytes after the header and the adaptation field (R370, R413). -/
def payloadRegion (pkt : List Byte) : List Byte :=
  let h := packetHeader pkt
  if h.pl then pkt.drop (if h.af then 5 + (pkt.getD 4 0).toNat else 4) else []

/-- The concatenated payload regions of the first `n` packets in OUT_BUF (R334). -/
def reassembled (n : Nat) (t : State) : List Byte := (List.range n).flatMap fun j => payloadRegion (packetAt j t)

/-- `IN_BUF[0..n) <- bs` and `IN_LEN <- n`, as a host program leaves them (R484, R494). -/
def withInput (bs : List Byte) (s : State) : State :=
  { memWrite inBase bs s with inLen := BitVec.ofNat 32 bs.length }

/-- The reset column of the register table (R32). -/
def Reg.resetWord : Reg → Word
  | .id => 0x5453504B
  | .version => 0x00010000
  | .timescale => 0x00015F90
  | .hdrCtrl => 0x00000080
  | .tsh => 0x47000000
  | .ctrl | .status | .cmd | .inLen | .outLen | .fillCount | .pktCount | .diag | .tsValid => 0x00000000
  | .ptsLo | .ptsHi | .dtsLo | .dtsHi | .t0Lo | .t0Hi | .streamId | .cfgCtrl | .audCfg => 0x00000000
  | .spsLen | .ppsLen | .pesdSid | .pesdLen | .afFlags | .afLen | .pcrCtrl => 0x00000000
  | .pcrBaseLo | .pcrBaseHi | .pcrExt => 0x00000000

/-- A timestamp value that needs no range treatment (R205). -/
def InTsRange (v : Int) : Prop := 0 ≤ v ∧ v < 2 ^ 33

/-- The indicator values of R58: PTS bit 1, DTS bit 0. -/
def indicatorBits (p d : Bool) : BitVec 2 := if p then (if d then 0b11 else 0b10) else (if d then 0b01 else 0b00)

/-- TimestampFields(p, d) raises nothing (R210): the conditions on TIMESCALE, P_DTS_ONLY and P_TS_RANGE. -/
def TimestampsEncodable (s : State) (p d : Bool) : Prop :=
  ((p = true ∨ d = true) → s.timescale ≠ 0) ∧ ((p = false ∧ d = true) → s.params.dtsOnly = .literal) ∧
    (s.params.tsRange = .wrap ∨
      ((p = true → InTsRange (roundedTicks s s.pts)) ∧ (d = true → InTsRange (roundedTicks s s.dts))))

/-- TimestampFields(p, d) raises `e`, by the order of R210. -/
def TimestampRaises (s : State) (p d : Bool) (e : Status) : Prop :=
  (e = .invalidOperand ∧ (p = true ∨ d = true) ∧ s.timescale = 0) ∨
  (e = .invalidTimestampCombination ∧ s.timescale ≠ 0 ∧ p = false ∧ d = true ∧ s.params.dtsOnly = .reject) ∨
  (e = .timestampOutOfRange ∧ s.timescale ≠ 0 ∧ ¬(p = false ∧ d = true ∧ s.params.dtsOnly = .reject) ∧
    s.params.tsRange = .reject ∧
    ((p = true ∧ ¬InTsRange (roundedTicks s s.pts)) ∨ (d = true ∧ ¬InTsRange (roundedTicks s s.dts))))

/-- The optional fields of the provided timestamps (R207, R210); a value modulo 2^33, which is the value itself in range (R205). -/
def timestampBytes (s : State) (p d : Bool) : List Byte :=
  (if p then ts5 (BitVec.ofInt 33 (roundedTicks s s.pts)) (if d then 0b0011 else 0b0010) else []) ++
    (if d then ts5 (BitVec.ofInt 33 (roundedTicks s s.dts)) 0b0001 else [])

end Sys2Proof.Machine
end

