-- ==== Sys2Proof/Certificates/Slice0/Obligations.lean ====
section
/-! DEFINITION. The statements about the block, for the provers. -/

open Sys2Proof Sys2Proof.Machine

/-! ### Encoding -/

/-- Decoding the word of a well-formed command gives the command back (R142, R144). -/
def Obligations.DecodeEncodeRoundTrip : Prop :=
  ∀ i : Instr, i.wellFormed = true → decode (encode i) = .ok i

/-- A word the decoder accepts is the word of the command it reads: no bit of it is dropped (R144). -/
def Obligations.EncodeDecodeRoundTrip : Prop :=
  ∀ (w : Word) (i : Instr), decode w = .ok i → i.wellFormed = true ∧ encode i = w

/-- R143: the illegal words, and what their ENGINE step does. -/
def Obligations.IllegalWordsCompleteAsIllegalCommand : Prop :=
  ∀ w : Word,
    ((∃ e, decode w = .error e) ↔
      (w.extractLsb' 0 8 ∉ ([0x01, 0x02, 0x03, 0x04, 0x10, 0x11, 0x12, 0x20, 0x30, 0x31, 0x32, 0x33, 0x34] : List Byte) ∨
        w.extractLsb' 9 3 ≠ 0 ∨ w.extractLsb' 16 16 ≠ 0 ∨
        (w.getLsbD 8 = true ∧ w.extractLsb' 0 8 ≠ 0x33#8) ∨
        (w.extractLsb' 12 4 ≠ 0 ∧ w.extractLsb' 0 8 ≠ 0x02#8))) ∧
    ∀ s : State, s.cmd = w → (∃ e, decode w = .error e) → s.busy = true → (s.delay = 0 ∨ s.host = []) →
      step s = .next { s with outLen := 0, err := 5, busy := false, done := true }

/-- A few words of R144 and 95_test_vectors.md section 3.10 decode to the commands they stand for. -/
def Obligations.SampleWordsDecode : Prop :=
  decode 0x00000001 = .ok .peshTsenc ∧ decode 0x0000F002 = .ok (.ts5Enc 15) ∧ decode 0x00000011 = .ok .pesBuildVideo ∧
  decode 0x00000020 = .ok .tsSegment ∧ decode 0x00000033 = .ok (.tsPktEnc false) ∧
  decode 0x00000133 = .ok (.tsPktEnc true) ∧ decode 0x00000101 = .error .useAfNotAllowed ∧
  decode 0x00001001 = .error .pfxNotAllowed ∧ decode 0x00000233 = .error .reservedBits ∧
  decode 0x00010020 = .error .reservedBits ∧ decode 0x00000000 = .error .reservedOpcode

/-! ### The step -/

/-- The ENGINE step of a pending command is the step of the command its word decodes to (R440). -/
def Obligations.StepRunsThePendingCommand : Prop :=
  ∀ (s : State) (i : Instr), s.busy = true → (s.delay = 0 ∨ s.host = []) → i.wellFormed = true →
    decode s.cmd = .ok i → step s = exec i s

/-- Without an ENGINE step to take, the next event is the host's next operation, and with none the block keeps its
state (R110, R455). Which agent goes first is the model's choice (log 4). -/
def Obligations.StepWithoutEngineTurn : Prop :=
  ∀ s : State, (s.busy = false ∨ (s.delay ≠ 0 ∧ s.host ≠ [])) →
    (s.host = [] → step s = .next s) ∧
    ∀ op rest, s.host = op :: rest → step s = hostStep op { s with host := rest, delay := s.delay - 1 }

/-- A command word placed in CMD runs in the very next step (R70). Placing it so is the model's choice (log 5). -/
def Obligations.PlacedCommandRunsNext : Prop :=
  ∀ (s : State) (i : Instr), i.wellFormed = true →
    step (s.withFetchWord 32 (encode i).toNat) = exec i (s.withFetchWord 32 (encode i).toNat)

/-- The pending command is over after finitely many host accesses, whatever the host does inside the window (R492). The bound
rests on the model's choice of when the ENGINE steps (log 4). -/
def Obligations.PendingCommandEnds : Prop :=
  ∀ s : State, s.busy = true → (∀ op ∈ s.host, op.wellFormed = true) →
    ∃ (k : Nat) (t : State), k ≤ s.delay + 1 ∧ Host.Core.run Sys2Proof.core k s = .next t ∧ t.busy = false

/-- Every step keeps the invariant, whichever agent takes it. -/
def Obligations.InvariantKeptByEveryStep : Prop :=
  ∀ s t : State, Inv s → step s = .next t → Inv t

/-- The state after power-on reset has the invariant. -/
def Obligations.InvariantHoldsAtReset : Prop := Inv State.reset

/-! ### The host port -/

/-- R104 and R106: which accesses are rejected, and that a rejected access sets BERR, answers an error (0 for a read) and
does nothing else. -/
def Obligations.RejectedAccessesOnlySetBerr : Prop :=
  ∀ (s : State) (w : Width) (off : Nat) (v : Word), s.params.defaultSizes → off < windowSize →
    (AccessRejected w off →
      hostStep (.read w off) s =
        .next { s with berr := true, resps := { error := true, data := some 0 } :: s.resps } ∧
      hostStep (.write w off v) s =
        .next { s with berr := true, resps := { error := true, data := none } :: s.resps }) ∧
    (s.busy = true → off ≠ 0x008 → off ≠ 0x00C →
      hostStep (.write w off v) s =
        .next { s with berr := true, resps := { error := true, data := none } :: s.resps }) ∧
    (¬AccessRejected w off →
      (∃ t d, hostStep (.read w off) s = .next t ∧ t.resps = { error := false, data := some d } :: s.resps ∧
        t.berr = s.berr) ∧
      ((s.busy = false ∨ off = 0x008 ∨ off = 0x00C) →
        ∃ t, hostStep (.write w off v) s = .next t ∧ t.resps = { error := false, data := none } :: s.resps))

/-- R73: while BUSY, five registers return their value and every other accepted read an unspecified one. How the model draws
it, afresh at each read, is its own choice (log 3). -/
def Obligations.ReadsWhileBusy : Prop :=
  ∀ s : State, s.busy = true →
    (∀ r ∈ [Reg.status, Reg.id, Reg.version, Reg.ctrl, Reg.cmd],
      hostStep (.read .w32 r.offset) s =
        .next { s with resps := { error := false, data := some (readReg r s) } :: s.resps }) ∧
    ∀ (w : Width) (off : Nat), off < windowSize → accessValid s.params w off = true →
      (∀ r ∈ [Reg.status, Reg.id, Reg.version, Reg.ctrl, Reg.cmd], r.offset ≠ off) →
      hostStep (.read w off) s =
        .next { s with
          draws := s.draws + 1
          resps := { error := false, data := some (lowBytes w (Config.freeRead s.draws)) } :: s.resps }

/-- R103: a buffer access covers the bytes from its offset on, byte i on data bits 8i+7 to 8i, and R107: a read changes
nothing. That a narrow write ignores the data bits above its width, and that a narrow read answers with them 0, is the
model's reading (log 20). -/
def Obligations.BufferAccessesAreLittleEndian : Prop :=
  ∀ (s : State) (w : Width) (off : Nat) (v : Word), s.busy = false → off < windowSize → 0x100 ≤ off →
    accessValid s.params w off = true →
    (∃ t, hostStep (.write w off v) s = .next t ∧
      t = { s with mem := t.mem, resps := { error := false, data := none } :: s.resps } ∧
      (∀ i, i < w.bytes → t.byteAt (off + i) = v.extractLsb' (8 * i) 8) ∧
      ∀ a, a < off ∨ off + w.bytes ≤ a → t.byteAt a = s.byteAt a) ∧
    ∃ d : Word, hostStep (.read w off) s =
        .next { s with resps := { error := false, data := some d } :: s.resps } ∧
      (∀ i, i < w.bytes → d.extractLsb' (8 * i) 8 = s.byteAt (off + i)) ∧ d.toNat < 2 ^ (8 * w.bytes)

/-- R102 and R32: a write of a register without a side effect stores its writable bits, leaves its other bits, every
other register and every buffer byte; reserved bits and read-only registers ignore it. R35: a write of CTRL with SRST = 0,
also while BUSY, stores bit 0 in IRQ_EN and changes nothing else. -/
def Obligations.RegisterReadAfterWrite : Prop :=
  (∀ (s : State) (r : Reg) (v : Word), s.busy = false → r.hasWriteEffect = false →
    ∃ t, hostStep (.write .w32 r.offset v) s = .next t ∧
      readReg r t = (v &&& r.writeMask) ||| (readReg r s &&& ~~~r.writeMask) ∧
      (∀ r', r' ≠ r → readReg r' t = readReg r' s) ∧ SameBytes s t) ∧
  ∀ (s : State) (v : Word), v.getLsbD 1 = false → hostStep (.write .w32 0x008 v) s =
    .next { s with irqEn := v.getLsbD 0, resps := { error := false, data := none } :: s.resps }

/-- R102, R107, R33, R34 and R149: a 32-bit read of a register of the idle block returns the register and changes nothing;
one turn of WAIT is a read of STATUS, and WAIT goes on while the word read has BUSY = 1. -/
def Obligations.RegisterReadsAndWait : Prop :=
  ∀ s : State, readReg .id s = 0x5453504B ∧ readReg .version s = 0x00010000 ∧
    (∀ r : Reg, s.busy = false → hostStep (.read .w32 r.offset) s =
      .next { s with resps := { error := false, data := some (readReg r s) } :: s.resps }) ∧
    hostStep .wait s =
      .next { s with
        resps := { error := false, data := some (readReg .status s) } :: s.resps
        host := if (readReg .status s).getLsbD 0 then .wait :: s.host else s.host }

/-- R32 and R43: the offset of every register, that no other offset is a register, and the field each register reads (the
words of STATUS, DIAG, HDR_CTRL and TSH are those of the statements about their bits). -/
def Obligations.RegisterMapIsInjective : Prop :=
  (∀ p ∈ ([(.id, 0x000), (.version, 0x004), (.ctrl, 0x008), (.status, 0x00C), (.cmd, 0x010), (.inLen, 0x014),
      (.outLen, 0x018), (.fillCount, 0x01C), (.pktCount, 0x020), (.diag, 0x024), (.tsValid, 0x030), (.timescale, 0x034),
      (.ptsLo, 0x038), (.ptsHi, 0x03C), (.dtsLo, 0x040), (.dtsHi, 0x044), (.t0Lo, 0x048), (.t0Hi, 0x04C),
      (.streamId, 0x050), (.cfgCtrl, 0x054), (.audCfg, 0x058), (.spsLen, 0x05C), (.ppsLen, 0x060), (.pesdSid, 0x064),
      (.pesdLen, 0x068), (.hdrCtrl, 0x070), (.tsh, 0x080), (.afFlags, 0x084), (.afLen, 0x088), (.pcrCtrl, 0x08C),
      (.pcrBaseLo, 0x090), (.pcrBaseHi, 0x094), (.pcrExt, 0x098)] : List (Reg × Nat)), p.1.offset = p.2) ∧
  (∀ r : Reg, Reg.ofOffset r.offset = some r ∧ r.offset % 4 = 0 ∧ r.offset < 0x100) ∧
  (∀ (off : Nat) (r : Reg), Reg.ofOffset off = some r → r.offset = off) ∧
  ∀ s : State,
    readReg .ctrl s = (if s.irqEn then 1 else 0) ∧ readReg .inLen s = s.inLen ∧ readReg .outLen s = s.outLen ∧
    readReg .fillCount s = s.fillCount ∧ readReg .pktCount s = s.pktCount ∧
    (readReg .tsValid s).toNat = (if s.ptsV then 1 else 0) + (if s.dtsV then 2 else 0) ∧
    readReg .timescale s = s.timescale ∧ readReg .ptsLo s = s.ptsLo ∧ readReg .ptsHi s = s.ptsHi ∧
    readReg .dtsLo s = s.dtsLo ∧ readReg .dtsHi s = s.dtsHi ∧ readReg .t0Lo s = s.t0Lo ∧ readReg .t0Hi s = s.t0Hi ∧
    (readReg .streamId s).toNat = s.streamId.toNat ∧ readReg .cfgCtrl s = (if s.cfgV then 1 else 0) ∧
    readReg .audCfg s = s.audCfg ∧ readReg .spsLen s = s.spsLen ∧ readReg .ppsLen s = s.ppsLen ∧
    (readReg .pesdSid s).toNat = s.pesdSid.toNat ∧ (readReg .pesdLen s).toNat = s.pesdLen.toNat ∧
    (readReg .afFlags s).toNat = s.afFlags.toNat ∧ (readReg .afLen s).toNat = s.afLen.toNat ∧
    readReg .pcrCtrl s = (if s.pcrV then 1 else 0) ∧ readReg .pcrBaseLo s = s.pcrBaseLo ∧
    (readReg .pcrBaseHi s).toNat = s.pcrBaseHi.toNat ∧ (readReg .pcrExt s).toNat = s.pcrExt.toNat

/-- R36: the bits of STATUS, and a write of STATUS, which clears DONE and BERR where it holds a 1 and changes nothing else. -/
def Obligations.StatusBitsAndWriteOneToClear : Prop :=
  ∀ (s : State) (v : Word),
    (readReg .status s).getLsbD 0 = s.busy ∧ (readReg .status s).getLsbD 1 = s.done ∧
    (readReg .status s).getLsbD 2 = s.berr ∧ (readReg .status s).getLsbD 3 = false ∧
    (readReg .status s).extractLsb' 4 4 = s.err ∧ (readReg .status s).extractLsb' 8 24 = 0 ∧
    hostStep (.write .w32 0x00C v) s =
      .next { s with
        done := if v.getLsbD 1 then false else s.done
        berr := if v.getLsbD 2 then false else s.berr
        resps := { error := false, data := none } :: s.resps }

/-- R62: the bits of TSH, and that a write of TSH leaves SYNC 0x47. -/
def Obligations.TshBitPositions : Prop :=
  ∀ (s : State) (v : Word), s.busy = false →
    (readReg .tsh s).extractLsb' 24 8 = 0x47 ∧ (readReg .tsh s).getLsbD 23 = s.tsh.tei ∧
    (readReg .tsh s).getLsbD 22 = s.tsh.pusi ∧ (readReg .tsh s).getLsbD 21 = s.tsh.prio ∧
    (readReg .tsh s).extractLsb' 8 13 = s.tsh.pid ∧ (readReg .tsh s).extractLsb' 6 2 = s.tsh.sc ∧
    (readReg .tsh s).getLsbD 5 = s.tsh.af ∧ (readReg .tsh s).getLsbD 4 = s.tsh.pl ∧
    (readReg .tsh s).extractLsb' 0 4 = s.tsh.cc ∧
    ∃ t, hostStep (.write .w32 0x080 v) s = .next t ∧ readReg .tsh t = 0x47#8 ++ v.extractLsb' 0 24

/-- R57: the bits of HDR_CTRL. -/
def Obligations.HdrCtrlBitPositions : Prop :=
  ∀ s : State,
    (readReg .hdrCtrl s).extractLsb' 6 2 = s.hdrCtrl.marker ∧ (readReg .hdrCtrl s).extractLsb' 4 2 = s.hdrCtrl.sc ∧
    (readReg .hdrCtrl s).getLsbD 3 = s.hdrCtrl.prio ∧ (readReg .hdrCtrl s).getLsbD 2 = s.hdrCtrl.dai ∧
    (readReg .hdrCtrl s).getLsbD 1 = s.hdrCtrl.copy ∧ (readReg .hdrCtrl s).getLsbD 0 = s.hdrCtrl.orig ∧
    (readReg .hdrCtrl s).extractLsb' 14 2 = s.hdrCtrl.ptsDts ∧ (readReg .hdrCtrl s).getLsbD 13 = s.hdrCtrl.escr ∧
    (readReg .hdrCtrl s).getLsbD 12 = s.hdrCtrl.esrate ∧ (readReg .hdrCtrl s).getLsbD 11 = s.hdrCtrl.dsm ∧
    (readReg .hdrCtrl s).getLsbD 10 = s.hdrCtrl.aci ∧ (readReg .hdrCtrl s).getLsbD 9 = s.hdrCtrl.crc ∧
    (readReg .hdrCtrl s).getLsbD 8 = s.hdrCtrl.ext ∧ (readReg .hdrCtrl s).extractLsb' 16 8 = s.hdrCtrl.hl ∧
    (readReg .hdrCtrl s).extractLsb' 24 8 = 0

/-- R37: a write of CMD while idle stores the word, sets BUSY, clears DONE and makes the command pending; while BUSY it is
rejected and changes nothing but BERR; a read returns the last stored word. The delay and its draw are the model's own
(log 4). -/
def Obligations.CommandWriteStartsACommand : Prop :=
  ∀ (s : State) (w : Word),
    readReg .cmd s = s.cmd ∧
    (s.busy = false → ∃ t, hostStep (.write .w32 0x010 w) s = .next t ∧
      t = { s with
        cmd := w, busy := true, done := false
        delay := t.delay, draws := s.draws + 1
        resps := { error := false, data := none } :: s.resps }) ∧
    (s.busy = true → hostStep (.write .w32 0x010 w) s =
      .next { s with berr := true, resps := { error := true, data := none } :: s.resps })

/-- R482: soft reset, at any time. OUT_BUF after an abandoned command is any value, so nothing is stated of it. -/
def Obligations.SoftResetState : Prop :=
  ∀ (s : State) (v : Word), v.getLsbD 1 = true →
    ∃ t, hostStep (.write .w32 0x008 v) s = .next t ∧
      t = { State.reset with
        mem := t.mem, params := s.params, host := s.host
        resps := { error := false, data := none } :: s.resps
        draws := t.draws, memDraw := s.memDraw, outDraw := t.outDraw } ∧
      (∀ r : Reg, readReg r t = r.resetWord) ∧
      (∀ a, inHdrOptRegion a = true → t.byteAt a = 0) ∧
      (∀ a, inHdrOptRegion a = false → inOutRegion a = false → t.byteAt a = s.byteAt a) ∧
      (s.busy = false → ∀ a, inOutRegion a = true → t.byteAt a = s.byteAt a)

/-- R481: the state after power-on reset, the first one and every later one. IN_BUF, OUT_BUF and CFG_BUF hold any bytes, so
nothing is stated of them. -/
def Obligations.PowerOnResetState : Prop :=
  (∀ r : Reg, readReg r State.reset = r.resetWord) ∧ State.reset.busy = false ∧ State.reset.irq = false ∧
    (∀ a, inHdrOptRegion a = true → State.reset.byteAt a = 0) ∧
    step State.reset = .next State.reset ∧
    ∀ s : State, ∃ t, hostStep .powerOn s = .next t ∧ (∀ r : Reg, readReg r t = r.resetWord) ∧ t.busy = false ∧
      t.irq = false ∧ ∀ a, inHdrOptRegion a = true → t.byteAt a = 0

/-- R446: the interrupt is a level, raised by the step that sets DONE or by setting IRQ_EN, and dropped by writing 1 to
DONE, by an accepted CMD write, by clearing IRQ_EN and by reset. -/
def Obligations.InterruptLevel : Prop :=
  ∀ s : State, s.irq = (s.irqEn && s.done) ∧
    (∀ i t, exec i s = .next t → t.irq = s.irqEn) ∧
    (∀ v t, hostStep (.write .w32 0x008 v) s = .next t → t.irq = (!v.getLsbD 1 && v.getLsbD 0 && s.done)) ∧
    (∀ v t, v.getLsbD 1 = true → hostStep (.write .w32 0x00C v) s = .next t → t.irq = false) ∧
    (∀ w t, s.busy = false → hostStep (.write .w32 0x010 w) s = .next t → t.irq = false) ∧
    (∀ t, hostStep .powerOn s = .next t → t.irq = false) ∧ State.reset.irq = false

/-- R149: COPY src, dst, n from an idle block copies the bytes, two bus accesses a byte. -/
def Obligations.HostCopyCopiesBytes : Prop :=
  ∀ (s : State) (src dst n : Nat), s.busy = false → s.host = hostCopy src dst n →
    (∀ i, i < n → bufferByte s.params (src + i) = true ∧ bufferByte s.params (dst + i) = true) →
    src + n ≤ windowSize → dst + n ≤ windowSize → (src + n ≤ dst ∨ dst + n ≤ src) →
    ∃ t, Host.Core.run Sys2Proof.core (2 * n) s = .next t ∧ t.host = [] ∧ t.busy = false ∧
      StoresAt s t dst (memRead src n s)

/-! ### All commands -/

/-- R440: every command completes, in every state, with PEND and BUSY 0, DONE 1 and a status code, and writes no register
but those the table of R146 gives it (and DIAG on MalformedInput, R42): TIMESCALE, PTS, DTS, T0, TS_VALID, IN_LEN,
STREAM_ID, CFG_CTRL, AUD_CFG, SPS_LEN, PPS_LEN, CTRL, BERR, CMD and the host's side never. With parameters that meet R10 it
writes no byte but HDR_OPT[0..HL) and OUT_BUF[0..OUT_LEN), each where its row of the table has that buffer, and on an error
none. -/
def Obligations.EveryCommandCompletes : Prop :=
  ∀ (i : Instr) (s : State), ∃ t, exec i s = .next t ∧ t = takeWritten i s t ∧
    t.busy = false ∧ t.done = true ∧ t.err.toNat ≤ 9 ∧
    (s.params.wf = true → ∀ a, byteWritten i t a = false → t.byteAt a = s.byteAt a)

/-- R68: commands write only OUT_BUF and HDR_OPT, and never past P_OUT_SIZE (R109). -/
def Obligations.CommandsWriteOnlyOutBufAndHdrOpt : Prop :=
  ∀ (i : Instr) (s t : State), s.params.wf = true → exec i s = .next t →
    ∀ a, inHdrOptRegion a = false → (a < outBase ∨ outBase + s.params.outSize ≤ a) → t.byteAt a = s.byteAt a

/-- R441: a command that raises, and an illegal command, write only what the rule lists. -/
def Obligations.ErrorAtomicity : Prop :=
  (∀ (s : State) (e : DecodeError), decode s.cmd = .error e →
    engineStep s = .next { s with outLen := 0, err := 5, busy := false, done := true }) ∧
  ∀ (i : Instr) (s t : State), exec i s = .next t → t.err ≠ 0 →
    t = { s with
      busy := false, done := true, err := t.err, outLen := 0
      fillCount := if i = .tsPktEnc true ∨ i = .tsPktEnc false then 0 else s.fillCount
      pktCount := if i = .tsSegment then 0 else s.pktCount
      diag := if t.err = 1 then s.diag.log .malformedInput else s.diag
      hdrCtrl := if i = .peshDec ∧ t.err = 1 then { f0 := 0x80, f1 := 0, hl := 0 } else s.hdrCtrl
      tsh := if (i = .tsHdrDec ∨ i = .tsPktDec) ∧ t.err = 1 then TsHeader.ofWord 0x47000000 else s.tsh
      afLen := if i = .tsPktDec ∧ t.err = 1 then 0 else s.afLen
      afFlags := if i = .tsPktDec ∧ t.err = 1 then 0 else s.afFlags
      pcrV := if i = .tsPktDec ∧ t.err = 1 then false else s.pcrV
      pcrBaseLo := if i = .tsPktDec ∧ t.err = 1 then 0 else s.pcrBaseLo
      pcrBaseHi := if i = .tsPktDec ∧ t.err = 1 then 0 else s.pcrBaseHi
      pcrExt := if i = .tsPktDec ∧ t.err = 1 then 0 else s.pcrExt }

/-- R42: the bits of DIAG, which completions are logged, that the count saturates, and that a host write clears it. -/
def Obligations.DiagnosticLog : Prop :=
  (∀ s : State, (readReg .diag s).extractLsb' 0 4 = s.diag.last ∧ (readReg .diag s).extractLsb' 4 12 = 0 ∧
    (readReg .diag s).extractLsb' 16 16 = s.diag.count) ∧
  (∀ (i : Instr) (s t : State), exec i s = .next t →
    if t.err = 1 ∨ (i = .pesDec ∧ t.err = 0 ∧
        (s.inLen.toNat < 9 ∨ s.inLen.toNat < 9 + (s.byteAt (inBase + 8)).toNat))
    then t.diag.last = 1 ∧ t.diag.count.toNat = min (s.diag.count.toNat + 1) 0xFFFF
    else t.diag = s.diag) ∧
  (∀ (s : State) (v : Word), s.busy = false → hostStep (.write .w32 0x024 v) s =
    .next { s with
      diag := { last := 0, count := 0 }
      resps := { error := false, data := none } :: s.resps }) ∧
  (∀ s : State, s.diag = { last := 0, count := 0 } → readReg .diag s = 0) ∧
  readReg .diag State.reset = 0

/-- R494: OUT_BUF is never a command input. Two states that differ in OUT_BUF bytes only give results that differ
in OUT_BUF bytes past OUT_LEN only. -/
def Obligations.OutBufIsNeverAnInput : Prop :=
  ∀ (i : Instr) (s : State) (m : Memory), s.params.wf = true → SameBytesOutsideOut s { s with mem := m } →
    ∀ t, exec i s = .next t → ∃ t', exec i { s with mem := m } = .next t' ∧
      t' = { t with mem := t'.mem } ∧ SameBytesOutsideOut t t' ∧
      ∀ k, k < t.outLen.toNat → t'.byteAt (outBase + k) = t.byteAt (outBase + k)

/-! ### PES header codec -/

/-- R204: the integer nearest to N/D, ties away from zero, with the rule's formula and examples. -/
def Obligations.RoundHalfAwayIsNearest : Prop :=
  (∀ (n : Int) (d : Nat), 0 < d →
    2 * |n - roundHalfAway n d * d| ≤ d ∧
    (2 * |n - roundHalfAway n d * d| = d → |n| < |roundHalfAway n d * d|) ∧
    (0 ≤ n → roundHalfAway n d = (2 * n + d) / (2 * d)) ∧
    (n < 0 → roundHalfAway n d = -((-2 * n + d) / (2 * d)))) ∧
  roundHalfAway 1 2 = 1 ∧ roundHalfAway (-1) 2 = -1 ∧ roundHalfAway 3 2 = 2 ∧ roundHalfAway 1 3 = 0 ∧
  roundHalfAway 2 3 = 1

/-- R212: timestamps keep their order while their values lie in range, strictly when they are a tick apart; outside, under
Wrap, the order is not kept. -/
def Obligations.TickValueMonotone : Prop :=
  (∀ (s : State) (x1 x2 : Int), s.timescale ≠ 0 → x1 < x2 →
    InTsRange (roundedTicks s x1) → InTsRange (roundedTicks s x2) →
    ∃ v1 v2, tickValue s x1 = .ok v1 ∧ tickValue s x2 = .ok v2 ∧ v1.toNat ≤ v2.toNat ∧
      ((s.timescale.toNat : Int) ≤ (x2 - x1) * 90000 → v1.toNat < v2.toNat)) ∧
  ∃ (s : State) (x1 x2 : Int) (v1 v2 : BitVec 33), s.params.tsRange = .wrap ∧ s.timescale ≠ 0 ∧ x1 < x2 ∧
    tickValue s x1 = .ok v1 ∧ tickValue s x2 = .ok v2 ∧ v2.toNat < v1.toNat

/-- R209: the 5-byte timestamp is invertible. -/
def Obligations.TimestampBytesInvertible : Prop :=
  ∀ (v : BitVec 33) (p : BitVec 4), ∃ s0 s1 s2 s3 s4 : Byte, ts5 v p = [s0, s1, s2, s3, s4] ∧
    v.toNat = (s0.extractLsb' 1 3).toNat * 2 ^ 30 + s1.toNat * 2 ^ 22 + (s2.extractLsb' 1 7).toNat * 2 ^ 15 +
      s3.toNat * 2 ^ 7 + (s4.extractLsb' 1 7).toNat ∧
    p = s0.extractLsb' 4 4

/-- R211, when R210 raises nothing: PESH_TSENC writes the indicator, HL and the fields into HDR and changes no other field. -/
def Obligations.PeshTsencWritesTimestampFields : Prop :=
  ∀ s : State, TimestampsEncodable s s.ptsV s.dtsV →
    ∃ t, exec .peshTsenc s = .next t ∧
      t = { s with
        mem := t.mem
        hdrCtrl := {
          f0 := s.hdrCtrl.f0
          f1 := indicatorBits s.ptsV s.dtsV ++ s.hdrCtrl.f1.extractLsb' 0 6
          hl := if s.ptsV then (if s.dtsV then 10 else 5) else (if s.dtsV then 5 else 0) }
        outLen := 0, err := 0, busy := false, done := true } ∧
      StoresAt s t hdrOptBase (timestampBytes s s.ptsV s.dtsV)

/-- R211 and R210: the errors of PESH_TSENC, in their order; HDR is unchanged. -/
def Obligations.PeshTsencErrors : Prop :=
  ∀ (s : State) (e : Status), TimestampRaises s s.ptsV s.dtsV e →
    exec .peshTsenc s = .next { s with outLen := 0, err := e.code, busy := false, done := true }

/-- R220 and R208: TS5_ENC emits the prefix, the 33-bit value in chunks of 3, 15 and 15 bits and a marker bit 1 after each. -/
def Obligations.Ts5EncEmitsTimestamp : Prop :=
  ∀ (s : State) (pfx : Nat), pfx < 16 →
    let raw := s.ptsHi.toNat * 2 ^ 32 + s.ptsLo.toNat
    ∃ t, exec (.ts5Enc pfx) s = .next t ∧
      if 2 ^ 33 ≤ raw then t = { s with outLen := 0, err := 6, busy := false, done := true }
      else
        t = { s with mem := t.mem, outLen := 5, err := 0, busy := false, done := true } ∧
        beValue (memRead outBase 5 t) =
          pfx * 2 ^ 36 + raw / 2 ^ 30 * 2 ^ 33 + 2 ^ 32 + raw / 2 ^ 15 % 2 ^ 15 * 2 ^ 17 + 2 ^ 16 +
            raw % 2 ^ 15 * 2 + 1 ∧
        ∀ a, a < outBase ∨ outBase + 5 ≤ a → t.byteAt a = s.byteAt a

/-- R230: PESH_ENC emits the two flag bytes, HL and HDR_OPT[0..HL), whatever they hold. -/
def Obligations.PeshEncEmitsHeader : Prop :=
  ∀ s : State, ∃ t, exec .peshEnc s = .next t ∧
    t = { s with
      mem := t.mem, outLen := BitVec.ofNat 32 (3 + s.hdrCtrl.hl.toNat), err := 0, busy := false, done := true } ∧
    StoresAt s t outBase
      ([s.hdrCtrl.f0, s.hdrCtrl.f1, s.hdrCtrl.hl] ++ memRead hdrOptBase s.hdrCtrl.hl.toNat s)

/-- R240, R241 and R242: PESH_DEC checks lengths only; a failed decode leaves the default header and is logged. -/
def Obligations.PeshDecReadsHeader : Prop :=
  ∀ s : State, ∃ t, exec .peshDec s = .next t ∧
    if s.params.inSize < s.inLen.toNat then t = { s with outLen := 0, err := 6, busy := false, done := true }
    else if s.inLen.toNat < 3 ∨ s.inLen.toNat < 3 + (s.byteAt (inBase + 2)).toNat then
      t = { s with
        hdrCtrl := { f0 := 0x80, f1 := 0, hl := 0 }
        diag := s.diag.log .malformedInput, outLen := 0, err := 1, busy := false, done := true }
    else
      t = { s with
        mem := t.mem
        hdrCtrl := { f0 := s.byteAt inBase, f1 := s.byteAt (inBase + 1), hl := s.byteAt (inBase + 2) }
        outLen := 0, err := 0, busy := false, done := true } ∧
      StoresAt s t hdrOptBase (memRead (inBase + 3) (s.byteAt (inBase + 2)).toNat s)

/-- R243: encoding any header and decoding the bytes, HDR disturbed in between, gives the header back. -/
def Obligations.HeaderRoundTrip : Prop :=
  ∀ (s t : State) (h : HdrCtrl) (d : List Byte), s.params.wf = true → d.length ≤ 256 → exec .peshEnc s = .next t →
    ∃ u, exec .peshDec (withInput (memRead outBase t.outLen.toNat t) { memWrite hdrOptBase d t with hdrCtrl := h }) =
        .next u ∧
      u.err = 0 ∧ u.hdrCtrl = s.hdrCtrl ∧
      memRead hdrOptBase s.hdrCtrl.hl.toNat u = memRead hdrOptBase s.hdrCtrl.hl.toNat s

/-! ### PES packet builder -/

/-- R273: a frame is repackaged exactly when it is a sequence of length-prefixed NAL units, each prefix then replaced by the
start code, and the length is kept. -/
def Obligations.AnnexBReplacesLengthPrefixes : Prop :=
  ∀ f out : List Byte, (annexB f = some out ↔ ∃ nals, nalsFit nals ∧ f = avccFrame nals ∧ out = startCodeFrame nals) ∧
    (annexB f = some out → out.length = f.length)

/-- R270, when nothing is raised: the audio packet, its framing header the opaque bytes of log 7. -/
def Obligations.PesBuildAudioEmitsPacket : Prop :=
  ∀ s : State,
    let opt := timestampBytes s s.ptsV false
    let len := 3 + opt.length + s.params.audioHdrLen + s.inLen.toNat
    s.inLen.toNat ≤ s.params.inSize → s.cfgV = true → TimestampsEncodable s s.ptsV false → len ≤ 65535 →
    ∃ t, exec .pesBuildAudio s = .next t ∧
      t = { s with mem := t.mem, outLen := BitVec.ofNat 32 (6 + len), err := 0, busy := false, done := true } ∧
      StoresAt s t outBase
        ([0x00, 0x00, 0x01, s.streamId, BitVec.ofNat 8 (len / 256), BitVec.ofNat 8 len,
          0x84, indicatorBits s.ptsV false ++ 0#6, if s.ptsV then 5 else 0] ++ opt ++
          (List.range s.params.audioHdrLen).map (fun i => Config.audioHdrByte s.audCfg s.inLen.toNat i) ++
          memRead inBase s.inLen.toNat s)

/-- R270 and R433: the errors of PES_BUILD_AUDIO, in their order. -/
def Obligations.PesBuildAudioErrors : Prop :=
  ∀ (s : State) (e : Status),
    ((e = .invalidOperand ∧ s.params.inSize < s.inLen.toNat) ∨
      (e = .missingConfiguration ∧ s.inLen.toNat ≤ s.params.inSize ∧ s.cfgV = false) ∨
      (s.inLen.toNat ≤ s.params.inSize ∧ s.cfgV = true ∧ TimestampRaises s s.ptsV false e) ∨
      (e = .unrepresentableLength ∧ s.inLen.toNat ≤ s.params.inSize ∧ s.cfgV = true ∧
        TimestampsEncodable s s.ptsV false ∧
        65535 < 3 + (timestampBytes s s.ptsV false).length + s.params.audioHdrLen + s.inLen.toNat)) →
    exec .pesBuildAudio s = .next { s with outLen := 0, err := e.code, busy := false, done := true }

/-- R275, when nothing is raised: the video packet of a frame of NAL units. -/
def Obligations.PesBuildVideoEmitsPacket : Prop :=
  ∀ (s : State) (nals : List (List Byte)),
    let opt := timestampBytes s s.ptsV s.dtsV
    let pre := if s.cfgV then
        s.params.audIdr ++ [0x00, 0x00, 0x00, 0x01] ++ memRead cfgBase s.spsLen.toNat s ++
          [0x00, 0x00, 0x00, 0x01] ++ memRead (cfgBase + s.spsLen.toNat) s.ppsLen.toNat s
      else s.params.audNonIdr
    let len := 3 + opt.length + pre.length + s.inLen.toNat
    s.inLen.toNat ≤ s.params.inSize → (s.cfgV = true → s.spsLen.toNat + s.ppsLen.toNat ≤ s.params.cfgSize) →
    TimestampsEncodable s s.ptsV s.dtsV → nalsFit nals → memRead inBase s.inLen.toNat s = avccFrame nals →
    len ≤ 65535 →
    ∃ t, exec .pesBuildVideo s = .next t ∧
      t = { s with mem := t.mem, outLen := BitVec.ofNat 32 (6 + len), err := 0, busy := false, done := true } ∧
      StoresAt s t outBase
        ([0x00, 0x00, 0x01, s.streamId, BitVec.ofNat 8 (len / 256), BitVec.ofNat 8 len,
          if s.params.videoDai then 0x84 else 0x80, indicatorBits s.ptsV s.dtsV ++ 0#6,
          if s.ptsV then (if s.dtsV then 10 else 5) else (if s.dtsV then 5 else 0)] ++ opt ++ pre ++
          startCodeFrame nals)

/-- R275 and R433: the errors of PES_BUILD_VIDEO, in their order; MalformedInput is logged. -/
def Obligations.PesBuildVideoErrors : Prop :=
  ∀ (s : State) (e : Status),
    let operandsFit := s.inLen.toNat ≤ s.params.inSize ∧
      (s.cfgV = true → s.spsLen.toNat + s.ppsLen.toNat ≤ s.params.cfgSize)
    let preLength := if s.cfgV then s.params.audIdr.length + 8 + s.spsLen.toNat + s.ppsLen.toNat
      else s.params.audNonIdr.length
    ((e = .invalidOperand ∧ ¬operandsFit) ∨
      (operandsFit ∧ TimestampRaises s s.ptsV s.dtsV e) ∨
      (e = .malformedInput ∧ operandsFit ∧ TimestampsEncodable s s.ptsV s.dtsV ∧
        ¬∃ nals, nalsFit nals ∧ memRead inBase s.inLen.toNat s = avccFrame nals) ∨
      (e = .unrepresentableLength ∧ operandsFit ∧ TimestampsEncodable s s.ptsV s.dtsV ∧
        (∃ nals, nalsFit nals ∧ memRead inBase s.inLen.toNat s = avccFrame nals) ∧
        65535 < 3 + (timestampBytes s s.ptsV s.dtsV).length + preLength + s.inLen.toNat)) →
    exec .pesBuildVideo s =
      .next { s with
        diag := if e = .malformedInput then s.diag.log .malformedInput else s.diag
        outLen := 0, err := e.code, busy := false, done := true }

/-- R276: an access unit of 70000 bytes or more gives no packet, whatever the parameters: OUT_LEN = 0, the buffers as they
were. -/
def Obligations.OverlongAccessUnitsGiveNoPacket : Prop :=
  ∀ s : State, 70000 ≤ s.inLen.toNat →
    (∃ t, exec .pesBuildAudio s = .next t ∧ t.err ≠ 0 ∧ t.outLen = 0 ∧ t.mem = s.mem ∧
      (s.inLen.toNat ≤ s.params.inSize → s.cfgV = true → TimestampsEncodable s s.ptsV false → t.err = 2)) ∧
    ∃ t, exec .pesBuildVideo s = .next t ∧ t.err ≠ 0 ∧ t.outLen = 0 ∧ t.mem = s.mem ∧
      (s.inLen.toNat ≤ s.params.inSize → (s.cfgV = true → s.spsLen.toNat + s.ppsLen.toNat ≤ s.params.cfgSize) →
        TimestampsEncodable s s.ptsV s.dtsV →
        (∃ nals, nalsFit nals ∧ memRead inBase s.inLen.toNat s = avccFrame nals) → t.err = 2)

/-- R280 to R284: PES_DEC. -/
def Obligations.PesDecReadsPacket : Prop :=
  ∀ s : State, ∃ t, exec .pesDec s = .next t ∧
    let n := s.inLen.toNat
    if s.params.inSize < n then t = { s with outLen := 0, err := 6, busy := false, done := true }
    else if n < 3 ∨ memRead inBase 3 s ≠ [0x00, 0x00, 0x01] then
      t = { s with outLen := 0, err := 4, busy := false, done := true }
    else if n < 6 then
      t = { s with
        diag := s.diag.log .malformedInput, outLen := 0, err := 1, busy := false, done := true }
    else if n < 9 ∨ n < 9 + (s.byteAt (inBase + 8)).toNat then
      t = { s with
        mem := t.mem
        pesdSid := s.byteAt (inBase + 3), pesdLen := s.byteAt (inBase + 4) ++ s.byteAt (inBase + 5)
        hdrCtrl := { f0 := 0x80, f1 := 0, hl := 0 }
        diag := s.diag.log .malformedInput
        outLen := BitVec.ofNat 32 (n - 9), err := 0, busy := false, done := true } ∧
      StoresAt s t outBase (memRead (inBase + 9) (n - 9) s)
    else
      let hl := (s.byteAt (inBase + 8)).toNat
      t = { s with
        mem := t.mem
        pesdSid := s.byteAt (inBase + 3), pesdLen := s.byteAt (inBase + 4) ++ s.byteAt (inBase + 5)
        hdrCtrl := { f0 := s.byteAt (inBase + 6), f1 := s.byteAt (inBase + 7), hl := s.byteAt (inBase + 8) }
        outLen := BitVec.ofNat 32 (n - (9 + hl)), err := 0, busy := false, done := true } ∧
      (∀ k, k < hl → t.byteAt (hdrOptBase + k) = s.byteAt (inBase + 9 + k)) ∧
      (∀ k, k < n - (9 + hl) → t.byteAt (outBase + k) = s.byteAt (inBase + 9 + hl + k)) ∧
      ∀ a, (a < hdrOptBase ∨ hdrOptBase + hl ≤ a) → (a < outBase ∨ outBase + (n - (9 + hl)) ≤ a) →
        t.byteAt a = s.byteAt a

/-- Decoding a built packet gives back its stream id, length, header and payload (R262, R280). -/
def Obligations.PesPacketRoundTrip : Prop :=
  ∀ (s : State) (sid : Byte) (h : PesHdr) (payload pkt : List Byte), s.params.wf = true →
    h.opt.length = h.hl.toNat → pesPacket sid h payload = .ok pkt →
    ∃ t, exec .pesDec (withInput pkt s) = .next t ∧ t.err = 0 ∧ t.diag = s.diag ∧ t.pesdSid = sid ∧
      t.pesdLen.toNat = pkt.length - 6 ∧ t.hdrCtrl = { f0 := h.f0, f1 := h.f1, hl := h.hl } ∧
      memRead hdrOptBase h.hl.toNat t = h.opt ∧ t.outLen.toNat = payload.length ∧
      memRead outBase payload.length t = payload

/-! ### TS packet codec -/

/-- R380 and R371: TS_HDR_ENC emits BE32(TSH). -/
def Obligations.TsHdrEncEmitsTsh : Prop :=
  ∀ s : State, ∃ t, exec .tsHdrEnc s = .next t ∧
    t = { s with mem := t.mem, outLen := 4, err := 0, busy := false, done := true } ∧
    StoresAt s t outBase
      [(readReg .tsh s).extractLsb' 24 8, (readReg .tsh s).extractLsb' 16 8, (readReg .tsh s).extractLsb' 8 8,
       (readReg .tsh s).extractLsb' 0 8]

/-- R383 and R372: TS_HDR_DEC. -/
def Obligations.TsHdrDecReadsTsh : Prop :=
  ∀ s : State, ∃ t, exec .tsHdrDec s = .next t ∧
    if s.params.inSize < s.inLen.toNat then t = { s with outLen := 0, err := 6, busy := false, done := true }
    else if s.inLen.toNat < 4 ∨ s.byteAt inBase ≠ 0x47 then
      t = { s with
        tsh := TsHeader.ofWord 0x47000000
        diag := s.diag.log .malformedInput, outLen := 0, err := 1, busy := false, done := true }
    else
      t = { s with tsh := t.tsh, outLen := 0, err := 0, busy := false, done := true } ∧
      (readReg .tsh t).toNat = beValue (memRead inBase 4 s)

/-- R386 and R375: PCR_ENC emits base, six 1 bits and extension, 48 bits, big-endian. -/
def Obligations.PcrEncEmitsPcr : Prop :=
  ∀ s : State, ∃ t, exec .pcrEnc s = .next t ∧
    t = { s with mem := t.mem, outLen := 6, err := 0, busy := false, done := true } ∧
    beValue (memRead outBase 6 t) =
      (s.pcrBaseHi.toNat * 2 ^ 32 + s.pcrBaseLo.toNat) * 2 ^ 15 + 63 * 2 ^ 9 + s.pcrExt.toNat ∧
    ∀ a, a < outBase ∨ outBase + 6 ≤ a → t.byteAt a = s.byteAt a

/-- R390, R391, R392 and R394: `Fill`. The packet has 188 bytes, no byte is consumed that was not offered, AF and PL are as
the rules say, the payload is padded only with useAF = 0, and 183 bytes with no field give 182. -/
def Obligations.FillMakesFullPackets : Prop :=
  ∀ (n : Nat) (useAF af0 : Bool) (fl0 : Byte),
    let f := fill n useAF af0 fl0
    let pcr := if af0 && fl0.getLsbD 4 then 6 else 0
    let space := 184 - (if af0 then 2 + pcr else 0)
    4 + (if f.af then 2 + pcr + f.stuff else 0) + f.w + f.pad = 188 ∧ f.w ≤ n ∧
    f.w = (if n = 183 ∧ useAF = true ∧ af0 = false then 182 else min n space) ∧
    f.pad = (if useAF then 0 else space - n) ∧ (f.af = false → f.stuff = 0) ∧ (useAF = false → f.stuff = 0) ∧
    (f.pl = true ↔ 0 < f.w + f.pad) ∧ (f.pl = false → n = 0 ∧ useAF = true) ∧
    (af0 = true → f.af = true ∧ f.fl = fl0) ∧ (af0 = false → f.fl = 0) ∧
    (af0 = false → (f.af = true ↔ useAF = true ∧ n ≤ 183))

/-- R400 and R396: TS_PKT_ENC. -/
def Obligations.TsPktEncEmitsPacket : Prop :=
  ∀ (s : State) (useAf : Bool), ∃ t, exec (.tsPktEnc useAf) s = .next t ∧
    if s.params.inSize < s.inLen.toNat ∨ (s.tsh.af = true ∧ s.afFlags.extractLsb' 0 4 ≠ 0) then
      t = { s with outLen := 0, fillCount := 0, err := 6, busy := false, done := true }
    else
      let f := fill s.inLen.toNat useAf s.tsh.af s.afFlags
      let h := TsHeader.word { s.tsh with af := f.af, pl := f.pl }
      t = { s with
        mem := t.mem, outLen := 188, fillCount := BitVec.ofNat 32 f.w
        tsh := { s.tsh with af := f.af, pl := f.pl }, err := 0, busy := false, done := true } ∧
      StoresAt s t outBase
        ([h.extractLsb' 24 8, h.extractLsb' 16 8, h.extractLsb' 8 8, h.extractLsb' 0 8] ++
          (if f.af then
            [BitVec.ofNat 8 (1 + (if f.fl.getLsbD 4 then 6 else 0) + f.stuff), f.fl] ++
              (if f.fl.getLsbD 4 then pcrBytes s.pcrBase s.pcrExt else []) ++ List.replicate f.stuff 0xFF
          else []) ++
          memRead inBase f.w s ++ List.replicate f.pad 0xFF)

/-- R410, R411 and R412: TS_PKT_DEC. -/
def Obligations.TsPktDecReadsPacket : Prop :=
  ∀ s : State, ∃ t, exec .tsPktDec s = .next t ∧
    let b := fun k => s.byteAt (inBase + k)
    let af := (b 3).getLsbD 5
    let alen := if af then (b 4).toNat else 0
    let fl : Byte := if 1 ≤ alen then b 5 else 0
    let hasPcr := decide (7 ≤ alen) && fl.getLsbD 4
    let off := if af then 5 + alen else 4
    let size := if (b 3).getLsbD 4 then 188 - off else 0
    if s.params.inSize < s.inLen.toNat then t = { s with outLen := 0, err := 6, busy := false, done := true }
    else if s.inLen.toNat < 188 ∨ b 0 ≠ 0x47 ∨ 183 < alen then
      t = { s with
        tsh := TsHeader.ofWord 0x47000000, afLen := 0, afFlags := 0
        pcrV := false, pcrBaseLo := 0, pcrBaseHi := 0, pcrExt := 0
        diag := s.diag.log .malformedInput, outLen := 0, err := 1, busy := false, done := true }
    else
      t = { s with
        mem := t.mem, tsh := t.tsh, afLen := BitVec.ofNat 8 alen, afFlags := fl
        pcrV := hasPcr, pcrBaseLo := t.pcrBaseLo, pcrBaseHi := t.pcrBaseHi, pcrExt := t.pcrExt
        outLen := BitVec.ofNat 32 size, err := 0, busy := false, done := true } ∧
      (readReg .tsh t).toNat = beValue (memRead inBase 4 s) ∧
      t.pcrBase.toNat = (if hasPcr then (b 6).toNat * 2 ^ 25 + (b 7).toNat * 2 ^ 17 + (b 8).toNat * 2 ^ 9 +
        (b 9).toNat * 2 + (b 10).toNat / 128 else 0) ∧
      t.pcrExt.toNat = (if hasPcr then (b 10).toNat % 2 * 256 + (b 11).toNat else 0) ∧
      StoresAt s t outBase (memRead (inBase + off) size s)

/-- R414: decoding the packet TS_PKT_ENC made gives back the header, the adaptation field and the payload. -/
def Obligations.TsPacketRoundTrip : Prop :=
  ∀ (s t s2 : State) (useAf : Bool), exec (.tsPktEnc useAf) s = .next t → t.err = 0 → s2.params.wf = true →
    let f := fill s.inLen.toNat useAf s.tsh.af s.afFlags
    ∃ u, exec .tsPktDec (withInput (memRead outBase 188 t) s2) = .next u ∧ u.err = 0 ∧ u.tsh = t.tsh ∧
      u.afFlags = (if s.tsh.af then s.afFlags else 0) ∧
      u.pcrV = (s.tsh.af && s.afFlags.getLsbD 4) ∧
      (u.pcrV = true → u.pcrBase = s.pcrBase ∧ u.pcrExt = s.pcrExt) ∧
      u.outLen.toNat = t.fillCount.toNat + f.pad ∧
      memRead outBase u.outLen.toNat u = memRead inBase t.fillCount.toNat s ++ List.replicate f.pad 0xFF

/-! ### TS segmentation engine -/

/-- R330 and R331: TS_SEGMENT's errors, the registers it writes and the bytes it does not. -/
def Obligations.TsSegmentCompletes : Prop :=
  ∀ s : State, ∃ t, exec .tsSegment s = .next t ∧
    let n := segCount s.inLen.toNat s.pcrV
    if s.params.inSize < s.inLen.toNat then
      t = { s with outLen := 0, pktCount := 0, err := 6, busy := false, done := true }
    else if s.params.outSize < 188 * n then
      t = { s with outLen := 0, pktCount := 0, err := 7, busy := false, done := true }
    else
      t = { s with
        mem := t.mem, outLen := BitVec.ofNat 32 (188 * n), pktCount := BitVec.ofNat 32 n
        tsh := { s.tsh with cc := s.tsh.cc + BitVec.ofNat 4 (if s.inLen.toNat = 0 then 0 else n) }
        err := 0, busy := false, done := true } ∧
      ∀ a, a < outBase ∨ outBase + 188 * n ≤ a → t.byteAt a = s.byteAt a

/-- R322: the FSM reaches END, after exactly SegCount packets of 188 bytes. -/
def Obligations.SegmentationFsmReachesEnd : Prop :=
  ∀ (c : SegCtx) (cc : BitVec 4),
    (segment c cc).st = .fin ∧ (segment c cc).k = segCount c.payload.length c.pcrV ∧
    (segment c cc).pos = c.payload.length ∧
    (segment c cc).out.length = segCount c.payload.length c.pcrV ∧ ∀ pkt ∈ (segment c cc).out, pkt.length = 188

/-- R332, R321 and R325: the header of every packet TS_SEGMENT emits. -/
def Obligations.SegmentPacketHeaders : Prop :=
  ∀ s t : State, s.params.wf = true → exec .tsSegment s = .next t → t.err = 0 →
    t.outLen.toNat = 188 * segCount s.inLen.toNat s.pcrV ∧
    ∀ j, j < segCount s.inLen.toNat s.pcrV →
      (packetAt j t).getD 0 0 = 0x47 ∧ (packetHeader (packetAt j t)).tei = false ∧
      (packetHeader (packetAt j t)).pusi = decide (j = 0) ∧ (packetHeader (packetAt j t)).prio = false ∧
      (packetHeader (packetAt j t)).pid = s.tsh.pid ∧ (packetHeader (packetAt j t)).sc = 0 ∧
      (packetHeader (packetAt j t)).pl = decide (s.inLen.toNat ≠ 0) ∧
      (packetHeader (packetAt j t)).cc = s.tsh.cc + BitVec.ofNat 4 j

/-- R334: the concatenated payload regions are the payload. -/
def Obligations.SegmentReconstructsPayload : Prop :=
  ∀ s t : State, exec .tsSegment s = .next t → t.err = 0 →
    reassembled (segCount s.inLen.toNat s.pcrV) t = memRead inBase s.inLen.toNat s

/-- R323: the first packet, its PUSI and the five rows of the rule's table. -/
def Obligations.FirstPacketLayout : Prop :=
  ∀ s t : State, exec .tsSegment s = .next t → t.err = 0 →
    let len := s.inLen.toNat
    let pkt := packetAt 0 t
    let af := (packetHeader pkt).af
    (packetHeader pkt).pusi = true ∧
    (s.pcrV = true → 176 ≤ len →
      af = true ∧ pkt.getD 4 0 = 7 ∧ pkt.getD 5 0 = 0x10 ∧ (pkt.drop 6).take 6 = pcrBytes s.pcrBase s.pcrExt ∧
      payloadRegion pkt = memRead inBase 176 s) ∧
    (s.pcrV = true → len < 176 →
      af = true ∧ pkt.getD 4 0 = BitVec.ofNat 8 (7 + (176 - len)) ∧ pkt.getD 5 0 = 0x10 ∧
      (pkt.drop 6).take 6 = pcrBytes s.pcrBase s.pcrExt ∧
      (pkt.drop 12).take (176 - len) = List.replicate (176 - len) 0xFF ∧ payloadRegion pkt = memRead inBase len s) ∧
    (s.pcrV = false → 184 ≤ len → af = false ∧ payloadRegion pkt = memRead inBase 184 s) ∧
    (s.pcrV = false → len ≤ 182 →
      af = true ∧ pkt.getD 4 0 = BitVec.ofNat 8 (1 + (182 - len)) ∧ pkt.getD 5 0 = 0x00 ∧
      (pkt.drop 6).take (182 - len) = List.replicate (182 - len) 0xFF ∧ payloadRegion pkt = memRead inBase len s) ∧
    (s.pcrV = false → len = 183 →
      af = true ∧ pkt.getD 4 0 = 1 ∧ pkt.getD 5 0 = 0x00 ∧ payloadRegion pkt = memRead inBase 182 s)

/-- R324, R327, R328, R329 and R335: the middle packets and the trailing packets, after a first packet of the `w` bytes of
R323. -/
def Obligations.MiddleAndTrailingPackets : Prop :=
  ∀ s t : State, exec .tsSegment s = .next t → t.err = 0 →
    let len := s.inLen.toNat
    let w := if s.pcrV then min len 176 else if len = 183 then 182 else min len 184
    let mid := (len - w) / 184
    let r := (len - w) % 184
    (∀ j, 1 ≤ j → j ≤ mid → (packetHeader (packetAt j t)).af = false ∧
      payloadRegion (packetAt j t) = memRead (inBase + w + 184 * (j - 1)) 184 s) ∧
    (r = 0 → t.pktCount.toNat = 1 + mid) ∧
    (r = 183 → t.pktCount.toNat = 3 + mid ∧
      (packetHeader (packetAt (1 + mid) t)).af = true ∧ (packetAt (1 + mid) t).getD 4 0 = 1 ∧
      (packetAt (1 + mid) t).getD 5 0 = 0x00 ∧
      payloadRegion (packetAt (1 + mid) t) = memRead (inBase + len - 183) 182 s ∧
      (packetHeader (packetAt (2 + mid) t)).af = true ∧ (packetAt (2 + mid) t).getD 4 0 = 182 ∧
      (packetAt (2 + mid) t).getD 5 0 = 0x00 ∧
      ((packetAt (2 + mid) t).drop 6).take 181 = List.replicate 181 0xFF ∧
      payloadRegion (packetAt (2 + mid) t) = [s.byteAt (inBase + len - 1)]) ∧
    (1 ≤ r → r ≤ 182 → t.pktCount.toNat = 2 + mid ∧
      (packetHeader (packetAt (1 + mid) t)).af = true ∧
      (packetAt (1 + mid) t).getD 4 0 = BitVec.ofNat 8 (183 - r) ∧ (packetAt (1 + mid) t).getD 5 0 = 0x00 ∧
      ((packetAt (1 + mid) t).drop 6).take (182 - r) = List.replicate (182 - r) 0xFF ∧
      payloadRegion (packetAt (1 + mid) t) = memRead (inBase + len - r) r s)

/-- R336: the largest packet counts, the bound of every conforming size, and when BufferOverflow is raised. -/
def Obligations.BufferOverflowIsUnreachable : Prop :=
  (∀ (len : Nat) (pcr : Bool), len ≤ 131072 → segCount len pcr ≤ 713) ∧
  segCount 131072 false = 713 ∧ segCount 131072 true = 713 ∧
  (∀ (len : Nat) (pcr : Bool), segCount len pcr ≤ len / 184 + 3) ∧
  (∀ s t : State, exec .tsSegment s = .next t → s.inLen.toNat ≤ s.params.inSize →
    (t.err = 7 ↔ s.params.outSize < 188 * segCount s.inLen.toNat s.pcrV)) ∧
  ∀ s t : State, s.params.wf = true → exec .tsSegment s = .next t → t.err ≠ 7
end

