-- ==== Sys2Proof/Laws/Bits.lean ====
section
/-! SUPPORT. Bits and numeric values of the packed words and bytes: HDR_CTRL, TSH, the TS header, the timestamp and the
PCR. Each is said once, so that no later proof unfolds a concatenation. -/

namespace Sys2Proof.Machine

/-! ### The register words -/

theorem hdrWord_bit (h : HdrCtrl) (i : Nat) : h.word.getLsbD i =
    if i < 8 then h.f0.getLsbD i else if i < 16 then h.f1.getLsbD (i - 8) else h.hl.getLsbD (i - 16) := by
  by_cases hi : i < 32
  · simp only [HdrCtrl.word, BitVec.getLsbD_append]
    interval_cases i <;> simp
  · rw [if_neg (by omega), if_neg (by omega), BitVec.getLsbD_of_ge _ _ (by omega), BitVec.getLsbD_of_ge _ _ (by omega)]

theorem tshWord_bit (h : TsHeader) (i : Nat) : h.word.getLsbD i =
    if i < 4 then h.cc.getLsbD i else if i = 4 then h.pl else if i = 5 then h.af else if i < 8 then h.sc.getLsbD (i - 6)
    else if i < 21 then h.pid.getLsbD (i - 8) else if i = 21 then h.prio else if i = 22 then h.pusi
    else if i = 23 then h.tei else (0x47#8).getLsbD (i - 24) := by
  by_cases hi : i < 32
  · simp only [TsHeader.word, BitVec.getLsbD_append, BitVec.getLsbD_ofBool]
    interval_cases i <;> simp
  · have hsync : (0x47#8).getLsbD (i - 24) = false := BitVec.getLsbD_of_ge _ _ (by omega)
    rw [BitVec.getLsbD_of_ge h.word i (by omega)]
    split_ifs <;> first | omega | exact hsync.symm

/-! ### The TS header (R371, R372) -/

/-- Header decode inverts header encode: the four bytes, then the fields. -/
theorem tsHdrOfBytes_tsHdrBytes (h : TsHeader) : ∃ b1 b2 b3, tsHdrBytes h = [0x47, b1, b2, b3] ∧ tsHdrOfBytes b1 b2 b3 = h := by
  refine ⟨_, _, _, rfl, ?_⟩
  obtain ⟨tei, pusi, prio, pid, sc, af, pl, cc⟩ := h
  simp only [tsHdrOfBytes, TsHeader.mk.injEq]
  refine ⟨?_, ?_, ?_, ?_, ?_, ?_, ?_, ?_⟩
  · simp only [BitVec.getLsbD_append, BitVec.getLsbD_ofBool]; simp
  · simp only [BitVec.getLsbD_append, BitVec.getLsbD_ofBool]; simp
  · simp only [BitVec.getLsbD_append, BitVec.getLsbD_ofBool]; simp
  · apply BitVec.eq_of_getLsbD_eq
    intro i hi
    simp only [BitVec.getLsbD_append, BitVec.getLsbD_extractLsb', BitVec.getLsbD_ofBool]
    interval_cases i <;> simp
  · apply BitVec.eq_of_getLsbD_eq
    intro i hi
    simp only [BitVec.getLsbD_append, BitVec.getLsbD_extractLsb', BitVec.getLsbD_ofBool]
    interval_cases i <;> simp
  · simp only [BitVec.getLsbD_append, BitVec.getLsbD_ofBool]; simp
  · simp only [BitVec.getLsbD_append, BitVec.getLsbD_ofBool]; simp
  · apply BitVec.eq_of_getLsbD_eq
    intro i hi
    simp only [BitVec.getLsbD_append, BitVec.getLsbD_extractLsb', BitVec.getLsbD_ofBool]
    interval_cases i <;> simp

/-- A byte of TSH is a byte of the header. -/
theorem tsHdrBytes_byte (h : TsHeader) (i : Nat) (hi : i < 4) :
    (tsHdrBytes h).getD i 0 = h.word.extractLsb' (24 - 8 * i) 8 := by
  apply BitVec.eq_of_getLsbD_eq
  intro k hk
  rw [BitVec.getLsbD_extractLsb', tshWord_bit]
  interval_cases i <;>
  simp only [tsHdrBytes, syncByte, List.getD_cons_zero, List.getD_cons_succ, BitVec.getLsbD_append, BitVec.getLsbD_extractLsb',
    BitVec.getLsbD_ofBool] <;>
  interval_cases k <;> simp

/-- The word of a parsed header. -/
theorem tsHdrOfBytes_word (b1 b2 b3 : Byte) :
    (tsHdrOfBytes b1 b2 b3).word = 0x47#8 ++ b1 ++ b2 ++ b3 := by
  apply BitVec.eq_of_getLsbD_eq
  intro i hi
  rw [tshWord_bit]
  simp only [tsHdrOfBytes, BitVec.getLsbD_append, BitVec.getLsbD_extractLsb']
  interval_cases i <;> simp

/-! ### The timestamp (R208) and the PCR (R375, R376), as numbers -/

theorem extract_toNat {w : Nat} (v : BitVec w) (a n : Nat) : (v.extractLsb' a n).toNat = v.toNat / 2 ^ a % 2 ^ n := by
  simp [BitVec.extractLsb'_toNat, Nat.shiftRight_eq_div_pow]

theorem append_toNat {n m : Nat} (x : BitVec n) (y : BitVec m) : (x ++ y).toNat = x.toNat * 2 ^ m + y.toNat := by
  rw [BitVec.toNat_append, Nat.shiftLeft_eq]
  exact (Nat.two_pow_add_eq_or_of_lt y.isLt x.toNat |> fun h => by rw [Nat.mul_comm] at h; exact h.symm)

/-- The five timestamp bytes as numbers. -/
theorem ts5_toNat (v : BitVec 33) (p : BitVec 4) : (ts5 v p).map BitVec.toNat =
    [p.toNat * 16 + v.toNat / 2 ^ 30 * 2 + 1, v.toNat / 2 ^ 22 % 256, v.toNat / 2 ^ 15 % 128 * 2 + 1,
      v.toNat / 2 ^ 7 % 256, v.toNat % 128 * 2 + 1] := by
  have hv := v.isLt
  simp only [ts5, List.map_cons, List.map_nil, append_toNat, extract_toNat, List.cons.injEq]
  refine ⟨?_, ?_, ?_, ?_, ?_, trivial⟩
  · have : v.toNat / 2 ^ 30 % 2 ^ 3 = v.toNat / 2 ^ 30 := Nat.mod_eq_of_lt (by omega)
    rw [this]; simp; omega
  all_goals simp

/-- The six PCR bytes as numbers. -/
theorem pcrBytes_toNat (base : BitVec 33) (ext : BitVec 9) : (pcrBytes base ext).map BitVec.toNat =
    [base.toNat / 2 ^ 25, base.toNat / 2 ^ 17 % 256, base.toNat / 2 ^ 9 % 256, base.toNat / 2 % 256,
      base.toNat % 2 * 128 + 126 + ext.toNat / 256, ext.toNat % 256] := by
  have hb := base.isLt
  have he := ext.isLt
  simp only [pcrBytes, List.map_cons, List.map_nil, append_toNat, extract_toNat, List.cons.injEq]
  refine ⟨?_, ?_, ?_, ?_, ?_, ?_, trivial⟩
  · exact Nat.mod_eq_of_lt (by omega)
  · simp
  · simp
  · simp
  · have : ext.toNat / 2 ^ 8 % 2 ^ 1 = ext.toNat / 256 := Nat.mod_eq_of_lt (by omega)
    rw [this]; simp; omega
  · simp

/-- PCR decode inverts PCR encode. -/
theorem pcrOf_pcrBytes (base : BitVec 33) (ext : BitVec 9) : ∃ b0 b1 b2 b3 b4 b5, pcrBytes base ext = [b0, b1, b2, b3, b4, b5] ∧
    pcrBaseOf b0 b1 b2 b3 b4 = base ∧ pcrExtOf b4 b5 = ext := by
  refine ⟨_, _, _, _, _, _, rfl, ?_, ?_⟩
  · apply BitVec.eq_of_getLsbD_eq
    intro i hi
    simp only [pcrBaseOf, BitVec.getLsbD_append, BitVec.getLsbD_extractLsb']
    interval_cases i <;> simp
  · apply BitVec.eq_of_getLsbD_eq
    intro i hi
    simp only [pcrExtOf, BitVec.getLsbD_append, BitVec.getLsbD_extractLsb']
    interval_cases i <;> simp

@[simp] theorem ts5_length (v : BitVec 33) (p : BitVec 4) : (ts5 v p).length = 5 := rfl

@[simp] theorem pcrBytes_length (base : BitVec 33) (ext : BitVec 9) : (pcrBytes base ext).length = 6 := rfl

@[simp] theorem tsHdrBytes_length (h : TsHeader) : (tsHdrBytes h).length = 4 := rfl

end Sys2Proof.Machine
end

