-- ==== Sys2Proof/Laws/Memory.lean ====
section
/-! SUPPORT. What the memory operations do: reading after a store, and the canonical form. -/

namespace Sys2Proof.Machine

@[simp] theorem find_nil (a : Nat) : Memory.find [] a = none := rfl

@[simp] theorem find_cons (x : Nat) (v : Byte) (m : Memory) (a : Nat) :
    Memory.find ((x, v) :: m) a = if x = a then some v else Memory.find m a := rfl

theorem find_append (m n : Memory) (a : Nat) :
    Memory.find (m ++ n) a = (Memory.find m a).or (Memory.find n a) := by
  induction m with
  | nil => rfl
  | cons c m ih =>
    obtain ⟨x, v⟩ := c
    simp only [List.cons_append, find_cons, ih]
    split <;> simp

/-- Filtering by offset keeps what is listed at a kept offset. -/
theorem find_filter (p : Nat → Bool) (m : Memory) (a : Nat) :
    Memory.find (m.filter fun c => p c.1) a = if p a then Memory.find m a else none := by
  induction m with
  | nil => simp
  | cons c m ih =>
    obtain ⟨x, v⟩ := c
    by_cases hx : p x <;> by_cases hxa : x = a <;> simp_all

/-- What the entries of a byte string list. -/
theorem find_cells (bs : List Byte) (base a : Nat) :
    Memory.find (Memory.cells base bs) a =
      if base ≤ a ∧ a < base + bs.length ∧ mustList a (bs.getD (a - base) 0) = true
      then some (bs.getD (a - base) 0) else none := by
  induction bs generalizing base with
  | nil => simp [Memory.cells]; omega
  | cons b bs ih =>
    by_cases hb : base = a
    · subst hb
      by_cases hm : mustList base b <;> simp [Memory.cells, hm, ih]
    · have key : Memory.find (Memory.cells base (b :: bs)) a = Memory.find (Memory.cells (base + 1) bs) a := by
        by_cases hm : mustList base b <;> simp [Memory.cells, hm, hb]
      rw [key, ih]
      by_cases h : base + 1 ≤ a
      · have : a - base = (a - (base + 1)) + 1 := by omega
        simp only [this, List.getD_cons_succ, List.length_cons]
        congr 1
        apply propext
        constructor <;> (rintro ⟨_, _, h3⟩; exact ⟨by omega, by omega, h3⟩)
      · rw [if_neg (by omega), if_neg (by omega)]

theorem mustList_eq_false {a : Nat} {v : Byte} : mustList a v = false ↔ inHdrOptRegion a = true ∧ v = 0 := by
  simp [mustList]

/-- A byte of a stored string reads back. -/
theorem byteAt_memWrite_inside (s : State) (base : Nat) (bs : List Byte) (i : Nat) (hi : i < bs.length) :
    (memWrite base bs s).byteAt (base + i) = bs.getD i 0 := by
  have h1 : Memory.find (Memory.store s.mem base bs) (base + i) =
      if mustList (base + i) (bs.getD i 0) = true then some (bs.getD i 0) else none := by
    simp only [Memory.store, find_append, find_filter (fun x => decide (x < base)),
      find_filter (fun x => decide (base + bs.length ≤ x)), find_cells]
    have e : base + i - base = i := by omega
    have h3 : ¬ base + bs.length ≤ base + i := by omega
    have h4 : ¬ base + i < base := by omega
    simp [e, hi, h3, h4]
  simp only [State.byteAt, memWrite, h1]
  split
  · rfl
  · rename_i h
    have := mustList_eq_false.1 (by simpa using h)
    simp [State.unlistedByte, this.1, this.2]

/-- A byte outside a stored string reads as before. -/
theorem byteAt_memWrite_outside (s : State) (base : Nat) (bs : List Byte) (a : Nat)
    (ha : a < base ∨ base + bs.length ≤ a) : (memWrite base bs s).byteAt a = s.byteAt a := by
  have h1 : Memory.find (Memory.store s.mem base bs) a = Memory.find s.mem a := by
    simp only [Memory.store, find_append, find_filter (fun x => decide (x < base)),
      find_filter (fun x => decide (base + bs.length ≤ x)), find_cells]
    rw [if_neg (c := _ ∧ _) (by omega)]
    rcases ha with h | h
    · have h' : ¬ base + bs.length ≤ a := by omega
      simp [h, h']
    · rw [if_neg (by simp; omega)]; simp [h]
  simp only [State.byteAt, memWrite, h1]
  rfl

/-- Everything a store does to the bytes a reader can see. -/
theorem memWrite_storesAt (s : State) (base : Nat) (bs : List Byte) : StoresAt s (memWrite base bs s) base bs :=
  ⟨byteAt_memWrite_inside s base bs, byteAt_memWrite_outside s base bs⟩

@[simp] theorem memRead_length (base n : Nat) (s : State) : (memRead base n s).length = n := by simp [memRead]

theorem memRead_getD (base n i : Nat) (s : State) (h : i < n) : (memRead base n s).getD i 0 = s.byteAt (base + i) := by
  simp [memRead, h]

/-- Two states that read alike over a range give the same byte string. -/
theorem memRead_congr {s t : State} {base n : Nat} (h : ∀ i, i < n → t.byteAt (base + i) = s.byteAt (base + i)) :
    memRead base n t = memRead base n s := by
  apply List.map_congr_left
  intro i hi
  exact h i (List.mem_range.1 hi)

/-- A stored string reads back whole. -/
theorem memRead_memWrite (s : State) (base : Nat) (bs : List Byte) : memRead base bs.length (memWrite base bs s) = bs := by
  apply List.ext_getElem (by simp)
  intro i h1 h2
  have := byteAt_memWrite_inside s base bs i h2
  simp [memRead, this]
  simp [h2]

/-! ### The canonical form -/

theorem wfFrom_mono {lo lo' : Nat} (m : Memory) (hl : lo' ≤ lo) (h : Memory.wfFrom lo m = true) :
    Memory.wfFrom lo' m = true := by
  cases m with
  | nil => rfl
  | cons c m =>
    obtain ⟨x, v⟩ := c
    simp only [Memory.wfFrom, Bool.and_eq_true, decide_eq_true_eq] at h ⊢
    exact ⟨⟨by omega, h.1.2⟩, h.2⟩

/-- Filtering keeps the canonical form. -/
theorem wfFrom_filter (p : Host.Cell → Bool) (m : Memory) (lo : Nat) (h : Memory.wfFrom lo m = true) :
    Memory.wfFrom lo (m.filter p) = true := by
  induction m generalizing lo with
  | nil => rfl
  | cons c m ih =>
    obtain ⟨x, v⟩ := c
    simp only [Memory.wfFrom, Bool.and_eq_true, decide_eq_true_eq] at h
    by_cases hp : p (x, v)
    · simp only [List.filter_cons_of_pos hp, Memory.wfFrom, Bool.and_eq_true, decide_eq_true_eq]
      exact ⟨h.1, ih _ h.2⟩
    · rw [List.filter_cons_of_neg hp]
      exact wfFrom_mono _ (by omega) (ih _ h.2)

/-- Two canonical parts, the first below `mid` and the second from `mid` on, make a canonical whole. -/
theorem wfFrom_append {lo mid : Nat} (m n : Memory) (hlm : lo ≤ mid) (hm : Memory.wfFrom lo m = true)
    (hlt : ∀ c ∈ m, c.1 < mid) (hn : Memory.wfFrom mid n = true) : Memory.wfFrom lo (m ++ n) = true := by
  induction m generalizing lo with
  | nil => exact wfFrom_mono _ hlm hn
  | cons c m ih =>
    obtain ⟨x, v⟩ := c
    simp only [List.cons_append, Memory.wfFrom, Bool.and_eq_true, decide_eq_true_eq] at hm ⊢
    have hx : x < mid := hlt (x, v) (by simp)
    exact ⟨hm.1, ih (by omega) hm.2 fun c hc => hlt c (by simp [hc])⟩

theorem wfFrom_cells (base : Nat) (bs : List Byte) : Memory.wfFrom base (Memory.cells base bs) = true := by
  induction bs generalizing base with
  | nil => rfl
  | cons b bs ih =>
    by_cases hb : mustList base b
    · simp [Memory.cells, Memory.wfFrom, hb, ih]
    · simp only [Memory.cells, hb]
      exact wfFrom_mono _ (by omega) (ih (base + 1))

theorem cells_offset {base : Nat} {bs : List Byte} {c : Host.Cell} (h : c ∈ Memory.cells base bs) :
    base ≤ c.1 ∧ c.1 < base + bs.length := by
  induction bs generalizing base with
  | nil => simp [Memory.cells] at h
  | cons b bs ih =>
    have key : c = (base, b) ∨ c ∈ Memory.cells (base + 1) bs := by
      by_cases hb : mustList base b <;> simp [Memory.cells, hb] at h <;> tauto
    rcases key with rfl | h'
    · simp
    · have := ih h'
      simp only [List.length_cons]
      omega

theorem wfFrom_raise_lo {lo hi : Nat} (m : Memory) (h : Memory.wfFrom lo m = true) (hge : ∀ c ∈ m, hi ≤ c.1) :
    Memory.wfFrom hi m = true := by
  cases m with
  | nil => rfl
  | cons c m =>
    obtain ⟨x, v⟩ := c
    have hx : hi ≤ x := hge (x, v) (by simp)
    simp only [Memory.wfFrom, Bool.and_eq_true, decide_eq_true_eq] at h ⊢
    exact ⟨⟨hx, h.1.2⟩, h.2⟩

/-- A store keeps the canonical form. -/
theorem wf_store (m : Memory) (base : Nat) (bs : List Byte) (h : Memory.wf m = true) :
    Memory.wf (Memory.store m base bs) = true := by
  unfold Memory.wf Memory.store at *
  refine wfFrom_append (mid := base + bs.length) _ _ (by omega) ?_ ?_ ?_
  · refine wfFrom_append (mid := base) _ _ (by omega) (wfFrom_filter _ _ _ h) ?_ (wfFrom_cells _ _)
    intro c hc
    simpa using (List.mem_filter.1 hc).2
  · intro c hc
    rcases List.mem_append.1 hc with hc | hc
    · have : c.1 < base := by simpa using (List.mem_filter.1 hc).2
      omega
    · exact (cells_offset hc).2
  · refine wfFrom_raise_lo _ (wfFrom_filter _ _ _ h) ?_
    intro c hc
    simpa using (List.mem_filter.1 hc).2

/-- A filter keeps the canonical form: what the resets do to the memory. -/
theorem wf_filter (m : Memory) (p : Host.Cell → Bool) (h : Memory.wf m = true) : Memory.wf (m.filter p) = true :=
  wfFrom_filter p m 0 h

/-- The memory after reset has the canonical form. -/
theorem wf_reset : Memory.wf State.reset.mem = true := rfl

/-- A store inside the buffers lists bytes of the buffers only. -/
theorem inBuffers_store (p : Params) (m : Memory) (base : Nat) (bs : List Byte) (h : Memory.inBuffers p m = true)
    (hb : ∀ i, i < bs.length → bufferByte p (base + i) = true) : Memory.inBuffers p (Memory.store m base bs) = true := by
  simp only [Memory.inBuffers, List.all_eq_true] at *
  intro c hc
  simp only [Memory.store, List.mem_append, List.mem_filter] at hc
  rcases hc with (hc | hc) | hc
  · exact h c hc.1
  · have := cells_offset hc
    have e : c.1 = base + (c.1 - base) := by omega
    rw [e]
    exact hb _ (by omega)
  · exact h c hc.1

/-- A filter keeps the listed bytes inside the buffers. -/
theorem inBuffers_filter (p : Params) (m : Memory) (q : Host.Cell → Bool) (h : Memory.inBuffers p m = true) :
    Memory.inBuffers p (m.filter q) = true := by
  simp only [Memory.inBuffers, List.all_eq_true] at *
  exact fun c hc => h c (List.mem_filter.1 hc).1

end Sys2Proof.Machine
end

