-- ==== Sys2Proof/Laws/Segment.lean ====
section
/-! SUPPORT. The packets of TS_SEGMENT in closed form (R322 to R329): what the finite-state machine has built when it
reaches END. -/

namespace Sys2Proof.Machine

/-- The first packet (R323). -/
def segFirstPacket (c : SegCtx) (cc : BitVec 4) : List Byte :=
  tsPacketBytes (segHeader c true cc) (fill c.payload.length true c.pcrV (if c.pcrV then 0x10 else 0x00)) c.payload c.base c.ext

/-- Middle packet number `j`, counted from 0, after a first packet of `w` bytes; the first of them carries `cc` (R324). -/
def segMiddlePacket (c : SegCtx) (w : Nat) (cc : BitVec 4) (j : Nat) : List Byte :=
  tsPacketBytes (segHeader c false (cc + BitVec.ofNat 4 j)) (fill 184 false false 0x00)
    ((c.payload.drop (w + 184 * j)).take 184) c.base c.ext

/-- A trailing packet of `n` bytes from `pos` on (R328, R329). -/
def segTrailingPacket (c : SegCtx) (cc : BitVec 4) (pos n : Nat) : List Byte :=
  tsPacketBytes (segHeader c false cc) (fill n true false 0x00) ((c.payload.drop pos).take n) c.base c.ext

/-- The trailing packets for the remainder `r`: none, two for 183, one for the rest (R328, R329). -/
def segTrailing (c : SegCtx) (cc : BitVec 4) (r : Nat) : List (List Byte) :=
  if r = 0 then []
  else if r = 183 then
    [segTrailingPacket c cc (c.payload.length - 183) 182, segTrailingPacket c (cc + 1) (c.payload.length - 1) 1]
  else [segTrailingPacket c cc (c.payload.length - r) r]

/-- The continuity counter after the first packet: not advanced by a packet without payload (R325). -/
def segFirstNextCc (c : SegCtx) (cc : BitVec 4) : BitVec 4 :=
  if (fill c.payload.length true c.pcrV (if c.pcrV then 0x10 else 0x00)).pl then cc + 1 else cc

theorem fill_w_le (n : Nat) (u a : Bool) (fl : Byte) : (fill n u a fl).w ≤ n := by
  simp only [fill, Filled.of]
  split_ifs <;> simp_all
  omega

theorem segFirstCount_le (c : SegCtx) : segFirstCount c ≤ c.payload.length := fill_w_le _ _ _ _

/-- `fill` on a full data area, without and with an adaptation field allowed: nothing is added. -/
theorem fill_184 (u : Bool) : fill 184 u false 0x00 = { w := 184, af := false, fl := 0x00, pl := true, stuff := 0, pad := 0 } := by
  cases u <;> decide

/-- `fill` on a short rest creates an adaptation field (R328). -/
theorem fill_short (n : Nat) (h1 : 1 ≤ n) (h2 : n ≤ 182) :
    fill n true false 0x00 = { w := n, af := true, fl := 0x00, pl := true, stuff := 182 - n, pad := 0 } := by
  have h : ¬ (184 ≤ n) := by omega
  simp [fill, afOverhead, Filled.of, h, h2]
  omega

theorem segRun_fin (c : SegCtx) (n : Nat) (g : Seg) (h : g.st = .fin) : segRun c n g = g := by
  cases n with
  | zero => rfl
  | succ n => simp [segRun, h]

theorem segRun_succ (c : SegCtx) (n : Nat) (g : Seg) (h : g.st ≠ .fin) : segRun c (n + 1) g = segRun c n (segStep c g) := by
  simp [segRun, h]

/-- `m` turns of the middle loop (R324). -/
theorem segRun_middle (c : SegCtx) (m n : Nat) (g : Seg) (hst : g.st = .middle)
    (hm : g.pos + 184 * m ≤ c.payload.length) : segRun c (m + n) g =
      segRun c n { g with
        pos := g.pos + 184 * m, k := g.k + m, cc := g.cc + BitVec.ofNat 4 m
        out := g.out ++ (List.range m).map (segMiddlePacket c g.pos g.cc) } := by
  induction m generalizing g with
  | zero => simp
  | succ m ih =>
    have h1 : 184 ≤ c.payload.length - g.pos := by omega
    have hlen : ((c.payload.drop g.pos).take 184).length = 184 := by simp; omega
    have e : segStep c g = { g with
        pos := g.pos + 184, k := g.k + 1, cc := g.cc + 1
        out := g.out ++ [segMiddlePacket c g.pos g.cc 0] } := by
      have hz : segMiddlePacket c g.pos g.cc 0 = tsPacketBytes (segHeader c false g.cc) (fill 184 false false 0x00)
          ((c.payload.drop g.pos).take 184) c.base c.ext := by
        simp only [segMiddlePacket, Nat.mul_zero, Nat.add_zero]
        rw [show g.cc + BitVec.ofNat 4 0 = g.cc by simp]
      simp only [segStep, hst, h1, if_true, segEmit, hlen, hz, fill_184]
    have h2 : m + 1 + n = (m + n) + 1 := by omega
    rw [h2, segRun_succ c _ g (by rw [hst]; decide), e, ih]
    rotate_left
    · exact hst
    · simp only []; omega
    congr 1
    simp only [Seg.mk.injEq, true_and]
    refine ⟨by omega, ?_, by omega, ?_⟩
    · rw [BitVec.add_assoc]
      congr 1
      apply BitVec.eq_of_toNat_eq; simp; omega
    · rw [List.append_assoc, List.range_succ_eq_map, List.map_cons, List.map_map, List.singleton_append]
      congr 2
      apply List.map_congr_left
      intro j _
      simp only [segMiddlePacket, Function.comp, Nat.succ_eq_add_one]
      rw [show g.pos + 184 + 184 * j = g.pos + 184 * (j + 1) by ring,
        show g.cc + 1 + BitVec.ofNat 4 j = g.cc + BitVec.ofNat 4 (j + 1) by
          rw [BitVec.add_assoc]; congr 1; apply BitVec.eq_of_toNat_eq; simp; omega]

/-- What the FSM is when it reaches END (R322): the first packet, the middle packets and the trailing ones. -/
theorem segment_eq (c : SegCtx) (cc : BitVec 4) :
    segment c cc =
      { st := .fin
        pos := c.payload.length
        r := (c.payload.length - segFirstCount c) % 184
        cc := segFirstNextCc c cc + BitVec.ofNat 4 (segCount c.payload.length c.pcrV - 1)
        k := segCount c.payload.length c.pcrV
        out := segFirstPacket c cc ::
          ((List.range ((c.payload.length - segFirstCount c) / 184)).map
              (segMiddlePacket c (segFirstCount c) (segFirstNextCc c cc)) ++
            segTrailing c (segFirstNextCc c cc + BitVec.ofNat 4 ((c.payload.length - segFirstCount c) / 184))
              ((c.payload.length - segFirstCount c) % 184)) } := by
  have hw := segFirstCount_le c
  have hsc : segFirstCount c = (let cap := if c.pcrV then 176 else 184
      if cap ≤ c.payload.length then cap else if c.pcrV then c.payload.length
      else if c.payload.length ≤ 182 then c.payload.length else 182) := by
    simp only [segFirstCount, fill, afOverhead, Filled.of, pcrFlag]
    cases c.pcrV <;> simp <;> split_ifs <;> simp_all
  have hcount : segCount c.payload.length c.pcrV = 1 + (c.payload.length - segFirstCount c) / 184 +
      (if (c.payload.length - segFirstCount c) % 184 = 0 then 0
       else if (c.payload.length - segFirstCount c) % 184 = 183 then 2 else 1) := by
    rw [hsc]; rfl
  generalize hlen : c.payload.length = len at *
  generalize hwv : segFirstCount c = w at *
  generalize hmv : (len - w) / 184 = m at *
  generalize hrv : (len - w) % 184 = r at *
  have hdiv : 184 * m + r = len - w := by rw [← hmv, ← hrv]; exact Nat.div_add_mod _ _
  have hr : r < 184 := by rw [← hrv]; exact Nat.mod_lt _ (by norm_num)
  have hm : m ≤ len / 184 := by rw [← hmv]; exact Nat.div_le_div_right (by omega)
  obtain ⟨n, hn⟩ : ∃ n, segFuel len = (m + (n + 3)) + 1 := ⟨len / 184 - m + 1, by unfold segFuel; omega⟩
  have e1 : segStep c (Seg.start cc) =
      { st := .middle, pos := w, r := r, cc := segFirstNextCc c cc, k := 1, out := [segFirstPacket c cc] } := by
    simp only [segStep, Seg.start, segEmit, hwv, hlen, hrv, segFirstPacket, segFirstNextCc, List.nil_append]
  unfold segment
  rw [hlen, hn, segRun_succ _ _ _ (by simp [Seg.start]), e1, segRun_middle c m (n + 3) _ rfl (by simp only [hlen]; clear hsc hcount; omega)]
  have hlast : ∀ x : BitVec 4, ∀ a b : Nat, x + BitVec.ofNat 4 a + BitVec.ofNat 4 b = x + BitVec.ofNat 4 (a + b) := by
    intro x a b; rw [BitVec.add_assoc, ← BitVec.ofNat_add]
  rw [show n + 3 = n + 2 + 1 from rfl, segRun_succ _ _ _ (by simp)]
  have hshort : ¬ (184 ≤ len - (w + 184 * m)) := by omega
  by_cases h0 : r = 0
  · simp only [segStep, hlen, hshort, if_false, h0, if_true]
    rw [segRun_fin _ _ _ rfl]
    simp only [hcount, segTrailing, h0, if_true, Seg.mk.injEq, List.append_nil, List.singleton_append, true_and]
    refine ⟨by omega, ?_, by omega, trivial⟩
    congr 2; omega
  · by_cases h183 : r = 183
    · subst h183
      simp only [segStep, hlen, hshort, if_false, h0, if_true]
      have h182 : ((c.payload.drop (len - 183)).take 182).length = 182 := by simp; omega
      have h1 : (c.payload.drop (len - 1)).length = 1 := by simp; omega
      rw [segRun_succ _ _ _ (by simp)]
      simp only [segStep, segEmit, hlen, h182, fill_short 182 (by norm_num) (by norm_num), if_true]
      rw [show n + 1 = n + 1 from rfl, segRun_succ _ _ _ (by simp)]
      simp only [segStep, segEmit, hlen, h1, fill_short 1 (by norm_num) (by norm_num), if_true]
      rw [segRun_fin _ _ _ rfl]
      simp only [hcount, segTrailing, h0, if_true, if_false, Seg.mk.injEq, true_and, hlen,
        segTrailingPacket, fill_short 182 (by norm_num) (by norm_num), fill_short 1 (by norm_num) (by norm_num)]
      have ht : (c.payload.drop (len - 1)).take 1 = c.payload.drop (len - 1) := List.take_of_length_le (by omega)
      refine ⟨?_, ?_⟩
      · rw [show (1 : BitVec 4) = BitVec.ofNat 4 1 from rfl, hlast, hlast]
        exact congrArg (fun n => segFirstNextCc c cc + BitVec.ofNat 4 n) (by omega)
      · simp [ht]
    · simp only [segStep, hlen, hshort, if_false, h0, h183]
      have h1 : (c.payload.drop (len - r)).length = r := by simp; omega
      rw [segRun_succ _ _ _ (by simp)]
      simp only [segStep, segEmit, hlen, h1, fill_short r (by omega) (by omega), if_true]
      rw [segRun_fin _ _ _ rfl]
      simp only [hcount, segTrailing, h0, h183, if_false, Seg.mk.injEq, true_and, hlen,
        segTrailingPacket, fill_short r (by omega) (by omega)]
      have ht : (c.payload.drop (len - r)).take r = c.payload.drop (len - r) := List.take_of_length_le (by omega)
      refine ⟨?_, ?_⟩
      · rw [show (1 : BitVec 4) = BitVec.ofNat 4 1 from rfl, hlast]; congr 2; omega
      · simp [ht]

end Sys2Proof.Machine
end

