-- ==== Sys2Proof/Laws/Packet.lean ====
section
/-! SUPPORT. The parts of a serialized TS packet (R396): its length, its header, its adaptation field and its payload region. -/

namespace Sys2Proof.Machine

@[simp] theorem ffs_length (k : Nat) : (ffs k).length = k := by simp [ffs]

theorem afBytes_length (f : Filled) (base : BitVec 33) (ext : BitVec 9) :
    (afBytes f base ext).length = if f.af then 1 + computeAfLen f else 0 := by
  unfold afBytes computeAfLen
  split_ifs <;> simp <;> omega

theorem pcrFlag_zero : pcrFlag 0#8 = false := rfl

/-- The serialized packet of `fill` has 188 bytes (R391). -/
theorem tsPacketBytes_fill_length (u a : Bool) (fl : Byte) (h : TsHeader) (data : List Byte) (base : BitVec 33) (ext : BitVec 9) :
    (tsPacketBytes h (fill data.length u a fl) data base ext).length = 188 := by
  simp only [tsPacketBytes, List.length_append, tsHdrBytes_length, afBytes_length, List.length_take, ffs_length, computeAfLen]
  cases a <;> cases u <;> cases h : pcrFlag fl <;>
    simp only [fill, afOverhead, Filled.of, h, if_true, if_false, Bool.false_eq_true, Bool.true_and, Bool.false_and,
      Bool.and_true, Bool.and_false, decide_eq_true_eq] <;>
    split_ifs <;> simp_all [pcrFlag_zero] <;> omega

/-- The adaptation-field length of `fill` is at most 183, so it fits its byte (R395). -/
theorem computeAfLen_fill_le (n : Nat) (u a : Bool) (fl : Byte) : computeAfLen (fill n u a fl) ≤ 183 := by
  cases a <;> cases u <;> cases h : pcrFlag fl <;>
    simp only [computeAfLen, fill, afOverhead, Filled.of, h, if_true, if_false, Bool.false_eq_true, Bool.true_and,
      Bool.false_and, Bool.and_true, Bool.and_false, decide_eq_true_eq] <;>
    split_ifs <;> simp_all [pcrFlag_zero] <;> omega

theorem fill_pl (n : Nat) (u a : Bool) (fl : Byte) :
    (fill n u a fl).pl = decide (0 < (fill n u a fl).w + (fill n u a fl).pad) := by
  simp only [fill, Filled.of]
  split_ifs <;> rfl

/-- The header of a serialized packet is the given one with the AF and PL of the filling. -/
theorem packetHeader_tsPacketBytes (h : TsHeader) (f : Filled) (data : List Byte) (base : BitVec 33) (ext : BitVec 9) :
    (tsPacketBytes h f data base ext).getD 0 0 = 0x47 ∧
      packetHeader (tsPacketBytes h f data base ext) = { h with af := f.af, pl := f.pl } := by
  obtain ⟨b1, b2, b3, e, hd⟩ := tsHdrOfBytes_tsHdrBytes { h with af := f.af, pl := f.pl }
  simp only [tsPacketBytes, packetHeader, e]
  exact ⟨rfl, hd⟩

/-- What stands after the four header bytes. -/
theorem drop_tsPacketBytes (h : TsHeader) (f : Filled) (data : List Byte) (base : BitVec 33) (ext : BitVec 9) :
    (tsPacketBytes h f data base ext).drop 4 = afBytes f base ext ++ data.take f.w ++ ffs f.pad := by
  obtain ⟨b1, b2, b3, e, -⟩ := tsHdrOfBytes_tsHdrBytes { h with af := f.af, pl := f.pl }
  simp [tsPacketBytes, e]

/-- The length and flags bytes of an adaptation field. -/
theorem af_tsPacketBytes (h : TsHeader) (f : Filled) (data : List Byte) (base : BitVec 33) (ext : BitVec 9) (ha : f.af = true) :
    (tsPacketBytes h f data base ext).getD 4 0 = BitVec.ofNat 8 (computeAfLen f) ∧
      (tsPacketBytes h f data base ext).getD 5 0 = f.fl ∧
      (tsPacketBytes h f data base ext).drop 6 =
        (if pcrFlag f.fl then pcrBytes base ext else []) ++ ffs f.stuff ++ data.take f.w ++ ffs f.pad := by
  obtain ⟨b1, b2, b3, e, -⟩ := tsHdrOfBytes_tsHdrBytes { h with af := f.af, pl := f.pl }
  simp only [tsPacketBytes, e, afBytes, if_pos ha]
  simp

/-- The payload region of a serialized packet is the data consumed and the padding (R413). -/
theorem payloadRegion_tsPacketBytes (h : TsHeader) (f : Filled) (data : List Byte) (base : BitVec 33) (ext : BitVec 9)
    (hpl : f.pl = decide (0 < f.w + f.pad)) (hl : f.af = true → computeAfLen f ≤ 183) :
    payloadRegion (tsPacketBytes h f data base ext) = data.take f.w ++ ffs f.pad := by
  simp only [payloadRegion, (packetHeader_tsPacketBytes h f data base ext).2]
  by_cases hp : f.pl = true
  · rw [if_pos hp]
    by_cases ha : f.af = true
    · have h4 := (af_tsPacketBytes h f data base ext ha).1
      have h5 := hl ha
      have h6 : (BitVec.ofNat 8 (computeAfLen f)).toNat = computeAfLen f := by simp; omega
      rw [if_pos ha, h4, h6, show 5 + computeAfLen f = 4 + (1 + computeAfLen f) by omega, ← List.drop_drop,
        drop_tsPacketBytes, List.append_assoc]
      have := afBytes_length f base ext
      rw [if_pos ha] at this
      rw [← this, List.drop_left]
    · rw [if_neg ha, drop_tsPacketBytes]
      simp [afBytes, ha]
  · rw [if_neg hp]
    have : ¬ (0 < f.w + f.pad) := by simpa [hpl] using hp
    have h1 : f.w = 0 := by omega
    have h2 : f.pad = 0 := by omega
    simp [h1, h2, ffs]

/-- The same for the packets `fill` makes. -/
theorem payloadRegion_fill (u a : Bool) (fl : Byte) (h : TsHeader) (data : List Byte) (base : BitVec 33) (ext : BitVec 9) :
    payloadRegion (tsPacketBytes h (fill data.length u a fl) data base ext) =
      data.take (fill data.length u a fl).w ++ ffs (fill data.length u a fl).pad :=
  payloadRegion_tsPacketBytes h _ data base ext (fill_pl _ _ _ _) fun _ => computeAfLen_fill_le _ _ _ _

end Sys2Proof.Machine
end

