-- ==== Sys2Proof/Laws/State.lean ====
section
/-! SUPPORT. One lemma per field per named update of State, so that no proof unfolds a record update. -/

namespace Sys2Proof.Machine

/-! ### memWrite -/

@[simp] theorem memWrite_busy (base : Nat) (bs : List Byte) (s : State) : (memWrite base bs s).busy = s.busy := rfl
@[simp] theorem memWrite_done (base : Nat) (bs : List Byte) (s : State) : (memWrite base bs s).done = s.done := rfl
@[simp] theorem memWrite_berr (base : Nat) (bs : List Byte) (s : State) : (memWrite base bs s).berr = s.berr := rfl
@[simp] theorem memWrite_err (base : Nat) (bs : List Byte) (s : State) : (memWrite base bs s).err = s.err := rfl
@[simp] theorem memWrite_irqEn (base : Nat) (bs : List Byte) (s : State) : (memWrite base bs s).irqEn = s.irqEn := rfl
@[simp] theorem memWrite_cmd (base : Nat) (bs : List Byte) (s : State) : (memWrite base bs s).cmd = s.cmd := rfl
@[simp] theorem memWrite_inLen (base : Nat) (bs : List Byte) (s : State) : (memWrite base bs s).inLen = s.inLen := rfl
@[simp] theorem memWrite_outLen (base : Nat) (bs : List Byte) (s : State) : (memWrite base bs s).outLen = s.outLen := rfl
@[simp] theorem memWrite_fillCount (base : Nat) (bs : List Byte) (s : State) : (memWrite base bs s).fillCount = s.fillCount := rfl
@[simp] theorem memWrite_pktCount (base : Nat) (bs : List Byte) (s : State) : (memWrite base bs s).pktCount = s.pktCount := rfl
@[simp] theorem memWrite_diag (base : Nat) (bs : List Byte) (s : State) : (memWrite base bs s).diag = s.diag := rfl
@[simp] theorem memWrite_ptsV (base : Nat) (bs : List Byte) (s : State) : (memWrite base bs s).ptsV = s.ptsV := rfl
@[simp] theorem memWrite_dtsV (base : Nat) (bs : List Byte) (s : State) : (memWrite base bs s).dtsV = s.dtsV := rfl
@[simp] theorem memWrite_timescale (base : Nat) (bs : List Byte) (s : State) : (memWrite base bs s).timescale = s.timescale := rfl
@[simp] theorem memWrite_ptsLo (base : Nat) (bs : List Byte) (s : State) : (memWrite base bs s).ptsLo = s.ptsLo := rfl
@[simp] theorem memWrite_ptsHi (base : Nat) (bs : List Byte) (s : State) : (memWrite base bs s).ptsHi = s.ptsHi := rfl
@[simp] theorem memWrite_dtsLo (base : Nat) (bs : List Byte) (s : State) : (memWrite base bs s).dtsLo = s.dtsLo := rfl
@[simp] theorem memWrite_dtsHi (base : Nat) (bs : List Byte) (s : State) : (memWrite base bs s).dtsHi = s.dtsHi := rfl
@[simp] theorem memWrite_t0Lo (base : Nat) (bs : List Byte) (s : State) : (memWrite base bs s).t0Lo = s.t0Lo := rfl
@[simp] theorem memWrite_t0Hi (base : Nat) (bs : List Byte) (s : State) : (memWrite base bs s).t0Hi = s.t0Hi := rfl
@[simp] theorem memWrite_streamId (base : Nat) (bs : List Byte) (s : State) : (memWrite base bs s).streamId = s.streamId := rfl
@[simp] theorem memWrite_cfgV (base : Nat) (bs : List Byte) (s : State) : (memWrite base bs s).cfgV = s.cfgV := rfl
@[simp] theorem memWrite_audCfg (base : Nat) (bs : List Byte) (s : State) : (memWrite base bs s).audCfg = s.audCfg := rfl
@[simp] theorem memWrite_spsLen (base : Nat) (bs : List Byte) (s : State) : (memWrite base bs s).spsLen = s.spsLen := rfl
@[simp] theorem memWrite_ppsLen (base : Nat) (bs : List Byte) (s : State) : (memWrite base bs s).ppsLen = s.ppsLen := rfl
@[simp] theorem memWrite_pesdSid (base : Nat) (bs : List Byte) (s : State) : (memWrite base bs s).pesdSid = s.pesdSid := rfl
@[simp] theorem memWrite_pesdLen (base : Nat) (bs : List Byte) (s : State) : (memWrite base bs s).pesdLen = s.pesdLen := rfl
@[simp] theorem memWrite_hdrCtrl (base : Nat) (bs : List Byte) (s : State) : (memWrite base bs s).hdrCtrl = s.hdrCtrl := rfl
@[simp] theorem memWrite_tsh (base : Nat) (bs : List Byte) (s : State) : (memWrite base bs s).tsh = s.tsh := rfl
@[simp] theorem memWrite_afFlags (base : Nat) (bs : List Byte) (s : State) : (memWrite base bs s).afFlags = s.afFlags := rfl
@[simp] theorem memWrite_afLen (base : Nat) (bs : List Byte) (s : State) : (memWrite base bs s).afLen = s.afLen := rfl
@[simp] theorem memWrite_pcrV (base : Nat) (bs : List Byte) (s : State) : (memWrite base bs s).pcrV = s.pcrV := rfl
@[simp] theorem memWrite_pcrBaseLo (base : Nat) (bs : List Byte) (s : State) : (memWrite base bs s).pcrBaseLo = s.pcrBaseLo := rfl
@[simp] theorem memWrite_pcrBaseHi (base : Nat) (bs : List Byte) (s : State) : (memWrite base bs s).pcrBaseHi = s.pcrBaseHi := rfl
@[simp] theorem memWrite_pcrExt (base : Nat) (bs : List Byte) (s : State) : (memWrite base bs s).pcrExt = s.pcrExt := rfl
@[simp] theorem memWrite_mem (base : Nat) (bs : List Byte) (s : State) : (memWrite base bs s).mem = Memory.store s.mem base bs := rfl
@[simp] theorem memWrite_params (base : Nat) (bs : List Byte) (s : State) : (memWrite base bs s).params = s.params := rfl
@[simp] theorem memWrite_host (base : Nat) (bs : List Byte) (s : State) : (memWrite base bs s).host = s.host := rfl
@[simp] theorem memWrite_resps (base : Nat) (bs : List Byte) (s : State) : (memWrite base bs s).resps = s.resps := rfl
@[simp] theorem memWrite_delay (base : Nat) (bs : List Byte) (s : State) : (memWrite base bs s).delay = s.delay := rfl
@[simp] theorem memWrite_draws (base : Nat) (bs : List Byte) (s : State) : (memWrite base bs s).draws = s.draws := rfl
@[simp] theorem memWrite_memDraw (base : Nat) (bs : List Byte) (s : State) : (memWrite base bs s).memDraw = s.memDraw := rfl
@[simp] theorem memWrite_outDraw (base : Nat) (bs : List Byte) (s : State) : (memWrite base bs s).outDraw = s.outDraw := rfl

/-! ### emit -/

@[simp] theorem emit_busy (bs : List Byte) (s : State) : (emit bs s).busy = s.busy := rfl
@[simp] theorem emit_done (bs : List Byte) (s : State) : (emit bs s).done = s.done := rfl
@[simp] theorem emit_berr (bs : List Byte) (s : State) : (emit bs s).berr = s.berr := rfl
@[simp] theorem emit_err (bs : List Byte) (s : State) : (emit bs s).err = s.err := rfl
@[simp] theorem emit_irqEn (bs : List Byte) (s : State) : (emit bs s).irqEn = s.irqEn := rfl
@[simp] theorem emit_cmd (bs : List Byte) (s : State) : (emit bs s).cmd = s.cmd := rfl
@[simp] theorem emit_inLen (bs : List Byte) (s : State) : (emit bs s).inLen = s.inLen := rfl
@[simp] theorem emit_outLen (bs : List Byte) (s : State) : (emit bs s).outLen = BitVec.ofNat 32 bs.length := rfl
@[simp] theorem emit_fillCount (bs : List Byte) (s : State) : (emit bs s).fillCount = s.fillCount := rfl
@[simp] theorem emit_pktCount (bs : List Byte) (s : State) : (emit bs s).pktCount = s.pktCount := rfl
@[simp] theorem emit_diag (bs : List Byte) (s : State) : (emit bs s).diag = s.diag := rfl
@[simp] theorem emit_ptsV (bs : List Byte) (s : State) : (emit bs s).ptsV = s.ptsV := rfl
@[simp] theorem emit_dtsV (bs : List Byte) (s : State) : (emit bs s).dtsV = s.dtsV := rfl
@[simp] theorem emit_timescale (bs : List Byte) (s : State) : (emit bs s).timescale = s.timescale := rfl
@[simp] theorem emit_ptsLo (bs : List Byte) (s : State) : (emit bs s).ptsLo = s.ptsLo := rfl
@[simp] theorem emit_ptsHi (bs : List Byte) (s : State) : (emit bs s).ptsHi = s.ptsHi := rfl
@[simp] theorem emit_dtsLo (bs : List Byte) (s : State) : (emit bs s).dtsLo = s.dtsLo := rfl
@[simp] theorem emit_dtsHi (bs : List Byte) (s : State) : (emit bs s).dtsHi = s.dtsHi := rfl
@[simp] theorem emit_t0Lo (bs : List Byte) (s : State) : (emit bs s).t0Lo = s.t0Lo := rfl
@[simp] theorem emit_t0Hi (bs : List Byte) (s : State) : (emit bs s).t0Hi = s.t0Hi := rfl
@[simp] theorem emit_streamId (bs : List Byte) (s : State) : (emit bs s).streamId = s.streamId := rfl
@[simp] theorem emit_cfgV (bs : List Byte) (s : State) : (emit bs s).cfgV = s.cfgV := rfl
@[simp] theorem emit_audCfg (bs : List Byte) (s : State) : (emit bs s).audCfg = s.audCfg := rfl
@[simp] theorem emit_spsLen (bs : List Byte) (s : State) : (emit bs s).spsLen = s.spsLen := rfl
@[simp] theorem emit_ppsLen (bs : List Byte) (s : State) : (emit bs s).ppsLen = s.ppsLen := rfl
@[simp] theorem emit_pesdSid (bs : List Byte) (s : State) : (emit bs s).pesdSid = s.pesdSid := rfl
@[simp] theorem emit_pesdLen (bs : List Byte) (s : State) : (emit bs s).pesdLen = s.pesdLen := rfl
@[simp] theorem emit_hdrCtrl (bs : List Byte) (s : State) : (emit bs s).hdrCtrl = s.hdrCtrl := rfl
@[simp] theorem emit_tsh (bs : List Byte) (s : State) : (emit bs s).tsh = s.tsh := rfl
@[simp] theorem emit_afFlags (bs : List Byte) (s : State) : (emit bs s).afFlags = s.afFlags := rfl
@[simp] theorem emit_afLen (bs : List Byte) (s : State) : (emit bs s).afLen = s.afLen := rfl
@[simp] theorem emit_pcrV (bs : List Byte) (s : State) : (emit bs s).pcrV = s.pcrV := rfl
@[simp] theorem emit_pcrBaseLo (bs : List Byte) (s : State) : (emit bs s).pcrBaseLo = s.pcrBaseLo := rfl
@[simp] theorem emit_pcrBaseHi (bs : List Byte) (s : State) : (emit bs s).pcrBaseHi = s.pcrBaseHi := rfl
@[simp] theorem emit_pcrExt (bs : List Byte) (s : State) : (emit bs s).pcrExt = s.pcrExt := rfl
@[simp] theorem emit_mem (bs : List Byte) (s : State) : (emit bs s).mem = Memory.store s.mem outBase bs := rfl
@[simp] theorem emit_params (bs : List Byte) (s : State) : (emit bs s).params = s.params := rfl
@[simp] theorem emit_host (bs : List Byte) (s : State) : (emit bs s).host = s.host := rfl
@[simp] theorem emit_resps (bs : List Byte) (s : State) : (emit bs s).resps = s.resps := rfl
@[simp] theorem emit_delay (bs : List Byte) (s : State) : (emit bs s).delay = s.delay := rfl
@[simp] theorem emit_draws (bs : List Byte) (s : State) : (emit bs s).draws = s.draws := rfl
@[simp] theorem emit_memDraw (bs : List Byte) (s : State) : (emit bs s).memDraw = s.memDraw := rfl
@[simp] theorem emit_outDraw (bs : List Byte) (s : State) : (emit bs s).outDraw = s.outDraw := rfl

/-! ### logEvent -/

@[simp] theorem logEvent_busy (st : Status) (s : State) : (logEvent st s).busy = s.busy := rfl
@[simp] theorem logEvent_done (st : Status) (s : State) : (logEvent st s).done = s.done := rfl
@[simp] theorem logEvent_berr (st : Status) (s : State) : (logEvent st s).berr = s.berr := rfl
@[simp] theorem logEvent_err (st : Status) (s : State) : (logEvent st s).err = s.err := rfl
@[simp] theorem logEvent_irqEn (st : Status) (s : State) : (logEvent st s).irqEn = s.irqEn := rfl
@[simp] theorem logEvent_cmd (st : Status) (s : State) : (logEvent st s).cmd = s.cmd := rfl
@[simp] theorem logEvent_inLen (st : Status) (s : State) : (logEvent st s).inLen = s.inLen := rfl
@[simp] theorem logEvent_outLen (st : Status) (s : State) : (logEvent st s).outLen = s.outLen := rfl
@[simp] theorem logEvent_fillCount (st : Status) (s : State) : (logEvent st s).fillCount = s.fillCount := rfl
@[simp] theorem logEvent_pktCount (st : Status) (s : State) : (logEvent st s).pktCount = s.pktCount := rfl
@[simp] theorem logEvent_diag (st : Status) (s : State) : (logEvent st s).diag = s.diag.log st := rfl
@[simp] theorem logEvent_ptsV (st : Status) (s : State) : (logEvent st s).ptsV = s.ptsV := rfl
@[simp] theorem logEvent_dtsV (st : Status) (s : State) : (logEvent st s).dtsV = s.dtsV := rfl
@[simp] theorem logEvent_timescale (st : Status) (s : State) : (logEvent st s).timescale = s.timescale := rfl
@[simp] theorem logEvent_ptsLo (st : Status) (s : State) : (logEvent st s).ptsLo = s.ptsLo := rfl
@[simp] theorem logEvent_ptsHi (st : Status) (s : State) : (logEvent st s).ptsHi = s.ptsHi := rfl
@[simp] theorem logEvent_dtsLo (st : Status) (s : State) : (logEvent st s).dtsLo = s.dtsLo := rfl
@[simp] theorem logEvent_dtsHi (st : Status) (s : State) : (logEvent st s).dtsHi = s.dtsHi := rfl
@[simp] theorem logEvent_t0Lo (st : Status) (s : State) : (logEvent st s).t0Lo = s.t0Lo := rfl
@[simp] theorem logEvent_t0Hi (st : Status) (s : State) : (logEvent st s).t0Hi = s.t0Hi := rfl
@[simp] theorem logEvent_streamId (st : Status) (s : State) : (logEvent st s).streamId = s.streamId := rfl
@[simp] theorem logEvent_cfgV (st : Status) (s : State) : (logEvent st s).cfgV = s.cfgV := rfl
@[simp] theorem logEvent_audCfg (st : Status) (s : State) : (logEvent st s).audCfg = s.audCfg := rfl
@[simp] theorem logEvent_spsLen (st : Status) (s : State) : (logEvent st s).spsLen = s.spsLen := rfl
@[simp] theorem logEvent_ppsLen (st : Status) (s : State) : (logEvent st s).ppsLen = s.ppsLen := rfl
@[simp] theorem logEvent_pesdSid (st : Status) (s : State) : (logEvent st s).pesdSid = s.pesdSid := rfl
@[simp] theorem logEvent_pesdLen (st : Status) (s : State) : (logEvent st s).pesdLen = s.pesdLen := rfl
@[simp] theorem logEvent_hdrCtrl (st : Status) (s : State) : (logEvent st s).hdrCtrl = s.hdrCtrl := rfl
@[simp] theorem logEvent_tsh (st : Status) (s : State) : (logEvent st s).tsh = s.tsh := rfl
@[simp] theorem logEvent_afFlags (st : Status) (s : State) : (logEvent st s).afFlags = s.afFlags := rfl
@[simp] theorem logEvent_afLen (st : Status) (s : State) : (logEvent st s).afLen = s.afLen := rfl
@[simp] theorem logEvent_pcrV (st : Status) (s : State) : (logEvent st s).pcrV = s.pcrV := rfl
@[simp] theorem logEvent_pcrBaseLo (st : Status) (s : State) : (logEvent st s).pcrBaseLo = s.pcrBaseLo := rfl
@[simp] theorem logEvent_pcrBaseHi (st : Status) (s : State) : (logEvent st s).pcrBaseHi = s.pcrBaseHi := rfl
@[simp] theorem logEvent_pcrExt (st : Status) (s : State) : (logEvent st s).pcrExt = s.pcrExt := rfl
@[simp] theorem logEvent_mem (st : Status) (s : State) : (logEvent st s).mem = s.mem := rfl
@[simp] theorem logEvent_params (st : Status) (s : State) : (logEvent st s).params = s.params := rfl
@[simp] theorem logEvent_host (st : Status) (s : State) : (logEvent st s).host = s.host := rfl
@[simp] theorem logEvent_resps (st : Status) (s : State) : (logEvent st s).resps = s.resps := rfl
@[simp] theorem logEvent_delay (st : Status) (s : State) : (logEvent st s).delay = s.delay := rfl
@[simp] theorem logEvent_draws (st : Status) (s : State) : (logEvent st s).draws = s.draws := rfl
@[simp] theorem logEvent_memDraw (st : Status) (s : State) : (logEvent st s).memDraw = s.memDraw := rfl
@[simp] theorem logEvent_outDraw (st : Status) (s : State) : (logEvent st s).outDraw = s.outDraw := rfl

/-! ### complete -/

@[simp] theorem complete_busy (st : Status) (s : State) : (complete st s).busy = false := rfl
@[simp] theorem complete_done (st : Status) (s : State) : (complete st s).done = true := rfl
@[simp] theorem complete_berr (st : Status) (s : State) : (complete st s).berr = s.berr := rfl
@[simp] theorem complete_err (st : Status) (s : State) : (complete st s).err = st.code := rfl
@[simp] theorem complete_irqEn (st : Status) (s : State) : (complete st s).irqEn = s.irqEn := rfl
@[simp] theorem complete_cmd (st : Status) (s : State) : (complete st s).cmd = s.cmd := rfl
@[simp] theorem complete_inLen (st : Status) (s : State) : (complete st s).inLen = s.inLen := rfl
@[simp] theorem complete_outLen (st : Status) (s : State) : (complete st s).outLen = s.outLen := rfl
@[simp] theorem complete_fillCount (st : Status) (s : State) : (complete st s).fillCount = s.fillCount := rfl
@[simp] theorem complete_pktCount (st : Status) (s : State) : (complete st s).pktCount = s.pktCount := rfl
@[simp] theorem complete_diag (st : Status) (s : State) : (complete st s).diag = if st = .malformedInput then s.diag.log st else s.diag := rfl
@[simp] theorem complete_ptsV (st : Status) (s : State) : (complete st s).ptsV = s.ptsV := rfl
@[simp] theorem complete_dtsV (st : Status) (s : State) : (complete st s).dtsV = s.dtsV := rfl
@[simp] theorem complete_timescale (st : Status) (s : State) : (complete st s).timescale = s.timescale := rfl
@[simp] theorem complete_ptsLo (st : Status) (s : State) : (complete st s).ptsLo = s.ptsLo := rfl
@[simp] theorem complete_ptsHi (st : Status) (s : State) : (complete st s).ptsHi = s.ptsHi := rfl
@[simp] theorem complete_dtsLo (st : Status) (s : State) : (complete st s).dtsLo = s.dtsLo := rfl
@[simp] theorem complete_dtsHi (st : Status) (s : State) : (complete st s).dtsHi = s.dtsHi := rfl
@[simp] theorem complete_t0Lo (st : Status) (s : State) : (complete st s).t0Lo = s.t0Lo := rfl
@[simp] theorem complete_t0Hi (st : Status) (s : State) : (complete st s).t0Hi = s.t0Hi := rfl
@[simp] theorem complete_streamId (st : Status) (s : State) : (complete st s).streamId = s.streamId := rfl
@[simp] theorem complete_cfgV (st : Status) (s : State) : (complete st s).cfgV = s.cfgV := rfl
@[simp] theorem complete_audCfg (st : Status) (s : State) : (complete st s).audCfg = s.audCfg := rfl
@[simp] theorem complete_spsLen (st : Status) (s : State) : (complete st s).spsLen = s.spsLen := rfl
@[simp] theorem complete_ppsLen (st : Status) (s : State) : (complete st s).ppsLen = s.ppsLen := rfl
@[simp] theorem complete_pesdSid (st : Status) (s : State) : (complete st s).pesdSid = s.pesdSid := rfl
@[simp] theorem complete_pesdLen (st : Status) (s : State) : (complete st s).pesdLen = s.pesdLen := rfl
@[simp] theorem complete_hdrCtrl (st : Status) (s : State) : (complete st s).hdrCtrl = s.hdrCtrl := rfl
@[simp] theorem complete_tsh (st : Status) (s : State) : (complete st s).tsh = s.tsh := rfl
@[simp] theorem complete_afFlags (st : Status) (s : State) : (complete st s).afFlags = s.afFlags := rfl
@[simp] theorem complete_afLen (st : Status) (s : State) : (complete st s).afLen = s.afLen := rfl
@[simp] theorem complete_pcrV (st : Status) (s : State) : (complete st s).pcrV = s.pcrV := rfl
@[simp] theorem complete_pcrBaseLo (st : Status) (s : State) : (complete st s).pcrBaseLo = s.pcrBaseLo := rfl
@[simp] theorem complete_pcrBaseHi (st : Status) (s : State) : (complete st s).pcrBaseHi = s.pcrBaseHi := rfl
@[simp] theorem complete_pcrExt (st : Status) (s : State) : (complete st s).pcrExt = s.pcrExt := rfl
@[simp] theorem complete_mem (st : Status) (s : State) : (complete st s).mem = s.mem := rfl
@[simp] theorem complete_params (st : Status) (s : State) : (complete st s).params = s.params := rfl
@[simp] theorem complete_host (st : Status) (s : State) : (complete st s).host = s.host := rfl
@[simp] theorem complete_resps (st : Status) (s : State) : (complete st s).resps = s.resps := rfl
@[simp] theorem complete_delay (st : Status) (s : State) : (complete st s).delay = s.delay := rfl
@[simp] theorem complete_draws (st : Status) (s : State) : (complete st s).draws = s.draws := rfl
@[simp] theorem complete_memDraw (st : Status) (s : State) : (complete st s).memDraw = s.memDraw := rfl
@[simp] theorem complete_outDraw (st : Status) (s : State) : (complete st s).outDraw = s.outDraw := rfl

/-! ### raise -/

@[simp] theorem raise_busy (st : Status) (s : State) : (raise st s).busy = false := rfl
@[simp] theorem raise_done (st : Status) (s : State) : (raise st s).done = true := rfl
@[simp] theorem raise_berr (st : Status) (s : State) : (raise st s).berr = s.berr := rfl
@[simp] theorem raise_err (st : Status) (s : State) : (raise st s).err = st.code := rfl
@[simp] theorem raise_irqEn (st : Status) (s : State) : (raise st s).irqEn = s.irqEn := rfl
@[simp] theorem raise_cmd (st : Status) (s : State) : (raise st s).cmd = s.cmd := rfl
@[simp] theorem raise_inLen (st : Status) (s : State) : (raise st s).inLen = s.inLen := rfl
@[simp] theorem raise_outLen (st : Status) (s : State) : (raise st s).outLen = 0 := rfl
@[simp] theorem raise_fillCount (st : Status) (s : State) : (raise st s).fillCount = s.fillCount := rfl
@[simp] theorem raise_pktCount (st : Status) (s : State) : (raise st s).pktCount = s.pktCount := rfl
@[simp] theorem raise_diag (st : Status) (s : State) : (raise st s).diag = if st = .malformedInput then s.diag.log st else s.diag := rfl
@[simp] theorem raise_ptsV (st : Status) (s : State) : (raise st s).ptsV = s.ptsV := rfl
@[simp] theorem raise_dtsV (st : Status) (s : State) : (raise st s).dtsV = s.dtsV := rfl
@[simp] theorem raise_timescale (st : Status) (s : State) : (raise st s).timescale = s.timescale := rfl
@[simp] theorem raise_ptsLo (st : Status) (s : State) : (raise st s).ptsLo = s.ptsLo := rfl
@[simp] theorem raise_ptsHi (st : Status) (s : State) : (raise st s).ptsHi = s.ptsHi := rfl
@[simp] theorem raise_dtsLo (st : Status) (s : State) : (raise st s).dtsLo = s.dtsLo := rfl
@[simp] theorem raise_dtsHi (st : Status) (s : State) : (raise st s).dtsHi = s.dtsHi := rfl
@[simp] theorem raise_t0Lo (st : Status) (s : State) : (raise st s).t0Lo = s.t0Lo := rfl
@[simp] theorem raise_t0Hi (st : Status) (s : State) : (raise st s).t0Hi = s.t0Hi := rfl
@[simp] theorem raise_streamId (st : Status) (s : State) : (raise st s).streamId = s.streamId := rfl
@[simp] theorem raise_cfgV (st : Status) (s : State) : (raise st s).cfgV = s.cfgV := rfl
@[simp] theorem raise_audCfg (st : Status) (s : State) : (raise st s).audCfg = s.audCfg := rfl
@[simp] theorem raise_spsLen (st : Status) (s : State) : (raise st s).spsLen = s.spsLen := rfl
@[simp] theorem raise_ppsLen (st : Status) (s : State) : (raise st s).ppsLen = s.ppsLen := rfl
@[simp] theorem raise_pesdSid (st : Status) (s : State) : (raise st s).pesdSid = s.pesdSid := rfl
@[simp] theorem raise_pesdLen (st : Status) (s : State) : (raise st s).pesdLen = s.pesdLen := rfl
@[simp] theorem raise_hdrCtrl (st : Status) (s : State) : (raise st s).hdrCtrl = s.hdrCtrl := rfl
@[simp] theorem raise_tsh (st : Status) (s : State) : (raise st s).tsh = s.tsh := rfl
@[simp] theorem raise_afFlags (st : Status) (s : State) : (raise st s).afFlags = s.afFlags := rfl
@[simp] theorem raise_afLen (st : Status) (s : State) : (raise st s).afLen = s.afLen := rfl
@[simp] theorem raise_pcrV (st : Status) (s : State) : (raise st s).pcrV = s.pcrV := rfl
@[simp] theorem raise_pcrBaseLo (st : Status) (s : State) : (raise st s).pcrBaseLo = s.pcrBaseLo := rfl
@[simp] theorem raise_pcrBaseHi (st : Status) (s : State) : (raise st s).pcrBaseHi = s.pcrBaseHi := rfl
@[simp] theorem raise_pcrExt (st : Status) (s : State) : (raise st s).pcrExt = s.pcrExt := rfl
@[simp] theorem raise_mem (st : Status) (s : State) : (raise st s).mem = s.mem := rfl
@[simp] theorem raise_params (st : Status) (s : State) : (raise st s).params = s.params := rfl
@[simp] theorem raise_host (st : Status) (s : State) : (raise st s).host = s.host := rfl
@[simp] theorem raise_resps (st : Status) (s : State) : (raise st s).resps = s.resps := rfl
@[simp] theorem raise_delay (st : Status) (s : State) : (raise st s).delay = s.delay := rfl
@[simp] theorem raise_draws (st : Status) (s : State) : (raise st s).draws = s.draws := rfl
@[simp] theorem raise_memDraw (st : Status) (s : State) : (raise st s).memDraw = s.memDraw := rfl
@[simp] theorem raise_outDraw (st : Status) (s : State) : (raise st s).outDraw = s.outDraw := rfl

/-! ### rejectAccess -/

@[simp] theorem rejectAccess_busy (s : State) : (rejectAccess s).busy = s.busy := rfl
@[simp] theorem rejectAccess_done (s : State) : (rejectAccess s).done = s.done := rfl
@[simp] theorem rejectAccess_berr (s : State) : (rejectAccess s).berr = true := rfl
@[simp] theorem rejectAccess_err (s : State) : (rejectAccess s).err = s.err := rfl
@[simp] theorem rejectAccess_irqEn (s : State) : (rejectAccess s).irqEn = s.irqEn := rfl
@[simp] theorem rejectAccess_cmd (s : State) : (rejectAccess s).cmd = s.cmd := rfl
@[simp] theorem rejectAccess_inLen (s : State) : (rejectAccess s).inLen = s.inLen := rfl
@[simp] theorem rejectAccess_outLen (s : State) : (rejectAccess s).outLen = s.outLen := rfl
@[simp] theorem rejectAccess_fillCount (s : State) : (rejectAccess s).fillCount = s.fillCount := rfl
@[simp] theorem rejectAccess_pktCount (s : State) : (rejectAccess s).pktCount = s.pktCount := rfl
@[simp] theorem rejectAccess_diag (s : State) : (rejectAccess s).diag = s.diag := rfl
@[simp] theorem rejectAccess_ptsV (s : State) : (rejectAccess s).ptsV = s.ptsV := rfl
@[simp] theorem rejectAccess_dtsV (s : State) : (rejectAccess s).dtsV = s.dtsV := rfl
@[simp] theorem rejectAccess_timescale (s : State) : (rejectAccess s).timescale = s.timescale := rfl
@[simp] theorem rejectAccess_ptsLo (s : State) : (rejectAccess s).ptsLo = s.ptsLo := rfl
@[simp] theorem rejectAccess_ptsHi (s : State) : (rejectAccess s).ptsHi = s.ptsHi := rfl
@[simp] theorem rejectAccess_dtsLo (s : State) : (rejectAccess s).dtsLo = s.dtsLo := rfl
@[simp] theorem rejectAccess_dtsHi (s : State) : (rejectAccess s).dtsHi = s.dtsHi := rfl
@[simp] theorem rejectAccess_t0Lo (s : State) : (rejectAccess s).t0Lo = s.t0Lo := rfl
@[simp] theorem rejectAccess_t0Hi (s : State) : (rejectAccess s).t0Hi = s.t0Hi := rfl
@[simp] theorem rejectAccess_streamId (s : State) : (rejectAccess s).streamId = s.streamId := rfl
@[simp] theorem rejectAccess_cfgV (s : State) : (rejectAccess s).cfgV = s.cfgV := rfl
@[simp] theorem rejectAccess_audCfg (s : State) : (rejectAccess s).audCfg = s.audCfg := rfl
@[simp] theorem rejectAccess_spsLen (s : State) : (rejectAccess s).spsLen = s.spsLen := rfl
@[simp] theorem rejectAccess_ppsLen (s : State) : (rejectAccess s).ppsLen = s.ppsLen := rfl
@[simp] theorem rejectAccess_pesdSid (s : State) : (rejectAccess s).pesdSid = s.pesdSid := rfl
@[simp] theorem rejectAccess_pesdLen (s : State) : (rejectAccess s).pesdLen = s.pesdLen := rfl
@[simp] theorem rejectAccess_hdrCtrl (s : State) : (rejectAccess s).hdrCtrl = s.hdrCtrl := rfl
@[simp] theorem rejectAccess_tsh (s : State) : (rejectAccess s).tsh = s.tsh := rfl
@[simp] theorem rejectAccess_afFlags (s : State) : (rejectAccess s).afFlags = s.afFlags := rfl
@[simp] theorem rejectAccess_afLen (s : State) : (rejectAccess s).afLen = s.afLen := rfl
@[simp] theorem rejectAccess_pcrV (s : State) : (rejectAccess s).pcrV = s.pcrV := rfl
@[simp] theorem rejectAccess_pcrBaseLo (s : State) : (rejectAccess s).pcrBaseLo = s.pcrBaseLo := rfl
@[simp] theorem rejectAccess_pcrBaseHi (s : State) : (rejectAccess s).pcrBaseHi = s.pcrBaseHi := rfl
@[simp] theorem rejectAccess_pcrExt (s : State) : (rejectAccess s).pcrExt = s.pcrExt := rfl
@[simp] theorem rejectAccess_mem (s : State) : (rejectAccess s).mem = s.mem := rfl
@[simp] theorem rejectAccess_params (s : State) : (rejectAccess s).params = s.params := rfl
@[simp] theorem rejectAccess_host (s : State) : (rejectAccess s).host = s.host := rfl
@[simp] theorem rejectAccess_resps (s : State) : (rejectAccess s).resps = s.resps := rfl
@[simp] theorem rejectAccess_delay (s : State) : (rejectAccess s).delay = s.delay := rfl
@[simp] theorem rejectAccess_draws (s : State) : (rejectAccess s).draws = s.draws := rfl
@[simp] theorem rejectAccess_memDraw (s : State) : (rejectAccess s).memDraw = s.memDraw := rfl
@[simp] theorem rejectAccess_outDraw (s : State) : (rejectAccess s).outDraw = s.outDraw := rfl

/-! ### latchCommand -/

@[simp] theorem latchCommand_busy (w : Word) (s : State) : (latchCommand w s).busy = true := rfl
@[simp] theorem latchCommand_done (w : Word) (s : State) : (latchCommand w s).done = false := rfl
@[simp] theorem latchCommand_berr (w : Word) (s : State) : (latchCommand w s).berr = s.berr := rfl
@[simp] theorem latchCommand_err (w : Word) (s : State) : (latchCommand w s).err = s.err := rfl
@[simp] theorem latchCommand_irqEn (w : Word) (s : State) : (latchCommand w s).irqEn = s.irqEn := rfl
@[simp] theorem latchCommand_cmd (w : Word) (s : State) : (latchCommand w s).cmd = w := rfl
@[simp] theorem latchCommand_inLen (w : Word) (s : State) : (latchCommand w s).inLen = s.inLen := rfl
@[simp] theorem latchCommand_outLen (w : Word) (s : State) : (latchCommand w s).outLen = s.outLen := rfl
@[simp] theorem latchCommand_fillCount (w : Word) (s : State) : (latchCommand w s).fillCount = s.fillCount := rfl
@[simp] theorem latchCommand_pktCount (w : Word) (s : State) : (latchCommand w s).pktCount = s.pktCount := rfl
@[simp] theorem latchCommand_diag (w : Word) (s : State) : (latchCommand w s).diag = s.diag := rfl
@[simp] theorem latchCommand_ptsV (w : Word) (s : State) : (latchCommand w s).ptsV = s.ptsV := rfl
@[simp] theorem latchCommand_dtsV (w : Word) (s : State) : (latchCommand w s).dtsV = s.dtsV := rfl
@[simp] theorem latchCommand_timescale (w : Word) (s : State) : (latchCommand w s).timescale = s.timescale := rfl
@[simp] theorem latchCommand_ptsLo (w : Word) (s : State) : (latchCommand w s).ptsLo = s.ptsLo := rfl
@[simp] theorem latchCommand_ptsHi (w : Word) (s : State) : (latchCommand w s).ptsHi = s.ptsHi := rfl
@[simp] theorem latchCommand_dtsLo (w : Word) (s : State) : (latchCommand w s).dtsLo = s.dtsLo := rfl
@[simp] theorem latchCommand_dtsHi (w : Word) (s : State) : (latchCommand w s).dtsHi = s.dtsHi := rfl
@[simp] theorem latchCommand_t0Lo (w : Word) (s : State) : (latchCommand w s).t0Lo = s.t0Lo := rfl
@[simp] theorem latchCommand_t0Hi (w : Word) (s : State) : (latchCommand w s).t0Hi = s.t0Hi := rfl
@[simp] theorem latchCommand_streamId (w : Word) (s : State) : (latchCommand w s).streamId = s.streamId := rfl
@[simp] theorem latchCommand_cfgV (w : Word) (s : State) : (latchCommand w s).cfgV = s.cfgV := rfl
@[simp] theorem latchCommand_audCfg (w : Word) (s : State) : (latchCommand w s).audCfg = s.audCfg := rfl
@[simp] theorem latchCommand_spsLen (w : Word) (s : State) : (latchCommand w s).spsLen = s.spsLen := rfl
@[simp] theorem latchCommand_ppsLen (w : Word) (s : State) : (latchCommand w s).ppsLen = s.ppsLen := rfl
@[simp] theorem latchCommand_pesdSid (w : Word) (s : State) : (latchCommand w s).pesdSid = s.pesdSid := rfl
@[simp] theorem latchCommand_pesdLen (w : Word) (s : State) : (latchCommand w s).pesdLen = s.pesdLen := rfl
@[simp] theorem latchCommand_hdrCtrl (w : Word) (s : State) : (latchCommand w s).hdrCtrl = s.hdrCtrl := rfl
@[simp] theorem latchCommand_tsh (w : Word) (s : State) : (latchCommand w s).tsh = s.tsh := rfl
@[simp] theorem latchCommand_afFlags (w : Word) (s : State) : (latchCommand w s).afFlags = s.afFlags := rfl
@[simp] theorem latchCommand_afLen (w : Word) (s : State) : (latchCommand w s).afLen = s.afLen := rfl
@[simp] theorem latchCommand_pcrV (w : Word) (s : State) : (latchCommand w s).pcrV = s.pcrV := rfl
@[simp] theorem latchCommand_pcrBaseLo (w : Word) (s : State) : (latchCommand w s).pcrBaseLo = s.pcrBaseLo := rfl
@[simp] theorem latchCommand_pcrBaseHi (w : Word) (s : State) : (latchCommand w s).pcrBaseHi = s.pcrBaseHi := rfl
@[simp] theorem latchCommand_pcrExt (w : Word) (s : State) : (latchCommand w s).pcrExt = s.pcrExt := rfl
@[simp] theorem latchCommand_mem (w : Word) (s : State) : (latchCommand w s).mem = s.mem := rfl
@[simp] theorem latchCommand_params (w : Word) (s : State) : (latchCommand w s).params = s.params := rfl
@[simp] theorem latchCommand_host (w : Word) (s : State) : (latchCommand w s).host = s.host := rfl
@[simp] theorem latchCommand_resps (w : Word) (s : State) : (latchCommand w s).resps = s.resps := rfl
@[simp] theorem latchCommand_delay (w : Word) (s : State) : (latchCommand w s).delay = s.delay := rfl
@[simp] theorem latchCommand_draws (w : Word) (s : State) : (latchCommand w s).draws = s.draws := rfl
@[simp] theorem latchCommand_memDraw (w : Word) (s : State) : (latchCommand w s).memDraw = s.memDraw := rfl
@[simp] theorem latchCommand_outDraw (w : Word) (s : State) : (latchCommand w s).outDraw = s.outDraw := rfl

/-! ### Bytes under the updates that leave the memory alone -/

@[simp] theorem byteAt_logEvent (st : Status) (s : State) (a : Nat) : (logEvent st s).byteAt a = s.byteAt a := rfl

@[simp] theorem byteAt_complete (st : Status) (s : State) (a : Nat) : (complete st s).byteAt a = s.byteAt a := rfl

@[simp] theorem byteAt_raise (st : Status) (s : State) (a : Nat) : (raise st s).byteAt a = s.byteAt a := rfl

@[simp] theorem byteAt_rejectAccess (s : State) (a : Nat) : (rejectAccess s).byteAt a = s.byteAt a := rfl

@[simp] theorem byteAt_latchCommand (w : Word) (s : State) (a : Nat) : (latchCommand w s).byteAt a = s.byteAt a := rfl

@[simp] theorem byteAt_emit (bs : List Byte) (s : State) (a : Nat) :
    (emit bs s).byteAt a = (memWrite outBase bs s).byteAt a := rfl

/-- A byte depends on the memory and the draws only. -/
theorem byteAt_congr {s t : State} (hm : t.mem = s.mem) (h1 : t.memDraw = s.memDraw) (h2 : t.outDraw = s.outDraw) (a : Nat) :
    t.byteAt a = s.byteAt a := by
  simp [State.byteAt, State.unlistedByte, hm, h1, h2]

/-- Everything `emit` does to the bytes a reader can see. -/
theorem emit_storesAt (bs : List Byte) (s : State) : StoresAt s (emit bs s) outBase bs := memWrite_storesAt s outBase bs

end Sys2Proof.Machine
end

