-- ==== Sys2Proof/Laws/Ops.lean ====
section
/-! SUPPORT. One lemma per shared operation: what it can do, for the provers to cite instead of unfolding it. -/

namespace Sys2Proof.Machine

/-! ### Reading the buffers -/

@[simp] theorem byteAt_respond (p : State × BusResponse) (a : Nat) : (respond p).byteAt a = p.1.byteAt a := rfl
@[simp] theorem byteAt_acceptCommand (w : Word) (s : State) (a : Nat) : (acceptCommand w s).byteAt a = s.byteAt a := rfl
@[simp] theorem byteAt_withPcrBase (b : BitVec 33) (s : State) (a : Nat) : (withPcrBase b s).byteAt a = s.byteAt a := rfl

theorem memRead_take (base n k : Nat) (s : State) (h : k ≤ n) : (memRead base n s).take k = memRead base k s := by
  apply List.ext_getElem
  · simp; omega
  · intro i h1 h2; simp [memRead]

theorem memRead_drop (base n k : Nat) (s : State) : (memRead base n s).drop k = memRead (base + k) (n - k) s := by
  apply List.ext_getElem
  · simp
  · intro i h1 h2; simp [memRead, Nat.add_assoc]

theorem memRead_succ (base n : Nat) (s : State) : memRead base (n + 1) s = s.byteAt base :: memRead (base + 1) n s := by
  simp only [memRead, List.range_succ_eq_map, List.map_cons, List.map_map, Nat.add_zero]
  congr 1
  apply List.map_congr_left
  intro i _
  simp only [Function.comp, Nat.succ_eq_add_one]
  congr 1; omega

/-- Part of a stored string reads back. -/
theorem memRead_memWrite_part (s : State) (base : Nat) (bs : List Byte) (o n : Nat) (h : o + n ≤ bs.length) :
    memRead (base + o) n (memWrite base bs s) = (bs.drop o).take n := by
  apply List.ext_getElem
  · simp; omega
  · intro i h1 h2
    simp at h1
    have := byteAt_memWrite_inside s base bs (o + i) (by omega)
    rw [← Nat.add_assoc] at this
    simp [memRead, this]
    rw [List.getElem?_eq_getElem (by omega)]; rfl

/-- String number `j` of equally long strings stored one after the other. -/
theorem take_drop_flatten (n : Nat) (l : List (List Byte)) (h : ∀ x ∈ l, x.length = n) (j : Nat) (hj : j < l.length) :
    (l.flatten.drop (n * j)).take n = l.getD j [] := by
  induction l generalizing j with
  | nil => simp at hj
  | cons x l ih =>
    have hx := h x (by simp)
    cases j with
    | zero => simp [← hx]
    | succ j =>
      simp only [List.flatten_cons, List.getD_cons_succ]
      rw [show n * (j + 1) = n + n * j by ring, ← List.drop_drop, ← hx, List.drop_left, hx]
      exact ih (fun y hy => h y (by simp [hy])) j (by simpa using hj)

theorem flatten_length (n : Nat) (l : List (List Byte)) (h : ∀ x ∈ l, x.length = n) : l.flatten.length = n * l.length := by
  induction l with
  | nil => simp
  | cons x l ih => simp [h x (by simp), ih (fun y hy => h y (by simp [hy]))]; ring

@[simp] theorem input_length (s : State) : s.input.length = s.inLen.toNat := by simp [State.input, State.inCount]

/-! ### The end of a command -/

/-- Everything `raise` does. -/
theorem raise_eq (st : Status) (s : State) : raise st s =
    { s with
      busy := false, done := true, err := st.code, outLen := 0
      diag := if st = .malformedInput then s.diag.log .malformedInput else s.diag } := by
  unfold raise complete
  split_ifs with h
  · subst h; rfl
  · rfl

/-- Everything a successful completion does. -/
theorem complete_ok_eq (s : State) : complete .ok s = { s with busy := false, done := true, err := 0 } := rfl

/-- Everything `emit` does. -/
theorem emit_spec (bs : List Byte) (s : State) :
    emit bs s = { s with mem := (emit bs s).mem, outLen := BitVec.ofNat 32 bs.length } ∧ StoresAt s (emit bs s) outBase bs :=
  ⟨rfl, memWrite_storesAt s outBase bs⟩

/-- Everything `writeHdr` does. -/
theorem writeHdr_spec (h : PesHdr) (s : State) :
    writeHdr h s = { s with mem := (writeHdr h s).mem, hdrCtrl := { f0 := h.f0, f1 := h.f1, hl := h.hl } } ∧
      StoresAt s (writeHdr h s) hdrOptBase h.opt :=
  ⟨rfl, memWrite_storesAt s hdrOptBase h.opt⟩

/-- A code is one of the ten of R430. -/
theorem code_le (st : Status) : st.code.toNat ≤ 9 := by cases st <;> decide

/-- Logging keeps DIAG well formed: something is logged. -/
theorem log_ne_zero (d : Diag) : (d.log .malformedInput).last = 1 ∧ (d.log .malformedInput).count ≠ 0 := by
  simp only [Diag.log, Status.code]
  refine ⟨trivial, ?_⟩
  split_ifs with hc
  · decide
  · intro h0
    have := congrArg (· - 1#16) h0
    simp at this
    exact hc (by rw [this]; rfl)

/-! ### The resets -/

/-- What soft reset leaves in the buffers (R482). -/
theorem softReset_byteAt (s : State) (a : Nat) : (softReset s).byteAt a =
    if inHdrOptRegion a then 0
    else if s.busy && inOutRegion a then Config.freeByte s.draws a else s.byteAt a := by
  simp only [State.byteAt, State.unlistedByte, softReset,
    find_filter (fun x => !inHdrOptRegion x && !(s.busy && inOutRegion x))]
  by_cases h1 : inHdrOptRegion a = true
  · simp [h1]
  · by_cases h2 : s.busy = true <;> by_cases h3 : inOutRegion a = true <;> simp [h1, h2, h3]

/-- What power-on reset leaves in the buffers (R481). -/
theorem powerOnReset_byteAt (s : State) (a : Nat) :
    (powerOnReset s).byteAt a = if inHdrOptRegion a then 0 else Config.freeByte s.draws a := by
  simp [State.byteAt, State.unlistedByte, powerOnReset, State.reset]

/-! ### Headers, timestamps and packets -/

/-- TimestampFields raises one of three codes (R210). -/
theorem timestampFields_error {s : State} {p d : Bool} {e : Status} (h : timestampFields s p d = .error e) :
    e = .invalidOperand ∨ e = .invalidTimestampCombination ∨ e = .timestampOutOfRange := by
  have f : ∀ b x q e, timestampField s b x q = .error e → e = .timestampOutOfRange := by
    intro b x q e hb
    unfold timestampField at hb
    split_ifs at hb
    split at hb
    · cases hb
    · rename_i e' he
      cases hb
      unfold tickValue rangeCheck at he
      split_ifs at he
      split at he
      · cases he
      · cases he; rfl
  unfold timestampFields at h
  simp only [] at h
  split_ifs at h
  · cases h; simp
  · cases h; simp
  · split at h
    · rename_i ha; cases h; simp [f _ _ _ _ ha]
    · split at h
      · rename_i ha; cases h; simp [f _ _ _ _ ha]
      · cases h

/-- The packed timestamp fields have at most 10 bytes (R210). -/
theorem timestampFields_length {s : State} {p d : Bool} {ind : BitVec 2} {opt : List Byte}
    (h : timestampFields s p d = .ok (ind, opt)) : opt.length ≤ 10 := by
  have f : ∀ b x q bs, timestampField s b x q = .ok bs → bs.length ≤ 5 := by
    intro b x q bs hb
    unfold timestampField at hb
    split_ifs at hb
    · split at hb
      · cases hb; simp
      · cases hb
    · cases hb; simp
  unfold timestampFields at h
  simp only [] at h
  split_ifs at h
  split at h
  · cases h
  · rename_i ha
    split at h
    · cases h
    · rename_i hb
      cases h
      have := f _ _ _ _ ha
      have := f _ _ _ _ hb
      simp; omega

/-- The one test of the commands that read IN_BUF, as a comparison (R38, R432). -/
theorem inLenTooLarge_iff (s : State) : s.inLenTooLarge = true ↔ s.params.inSize < s.inLen.toNat := decide_eq_true_iff

/-- RangeCheck when nothing is raised: the value modulo 2^33 (R205). -/
theorem rangeCheck_ok (p : Params) (v : Int) (h : p.tsRange = .wrap ∨ InTsRange v) :
    rangeCheck p v = .ok (BitVec.ofInt 33 v) := by
  unfold rangeCheck
  split_ifs with hh
  · congr 1
    apply BitVec.eq_of_toNat_eq
    rw [BitVec.toNat_ofNat, BitVec.toNat_ofInt]
    omega
  · rcases h with h | h
    · rw [h]
      dsimp only
      congr 1
      apply BitVec.eq_of_toNat_eq
      rw [BitVec.toNat_ofNat, BitVec.toNat_ofInt]
      norm_num
      omega
    · exact absurd h hh

/-- RangeCheck when it raises (R205). -/
theorem rangeCheck_error (p : Params) (v : Int) (h : p.tsRange = .reject) (hv : ¬InTsRange v) :
    rangeCheck p v = .error .timestampOutOfRange := by
  unfold rangeCheck
  rw [if_neg (show ¬(0 ≤ v ∧ v < 2 ^ 33) from hv), h]

/-- TimestampFields when nothing is raised (R210). -/
theorem timestampFields_ok (s : State) (p d : Bool) (h : TimestampsEncodable s p d) :
    timestampFields s p d = .ok (indicatorBits p d, timestampBytes s p d) := by
  obtain ⟨h1, h2, h3⟩ := h
  have hp : p = true → tickValue s s.pts = .ok (BitVec.ofInt 33 (roundedTicks s s.pts)) := fun hp =>
    rangeCheck_ok _ _ (h3.imp_right fun h => h.1 hp)
  have hd : d = true → tickValue s s.dts = .ok (BitVec.ofInt 33 (roundedTicks s s.dts)) := fun hd =>
    rangeCheck_ok _ _ (h3.imp_right fun h => h.2 hd)
  unfold timestampFields
  cases p <;> cases d <;> simp_all [indicator, indicatorBits, timestampField, timestampBytes]

/-- TimestampFields when it raises (R210). -/
theorem timestampFields_raises (s : State) (p d : Bool) (e : Status) (h : TimestampRaises s p d e) :
    timestampFields s p d = .error e := by
  unfold timestampFields
  rcases h with ⟨rfl, h1, h2⟩ | ⟨rfl, h1, rfl, rfl, h4⟩ | ⟨rfl, h1, h2, h3, h4⟩
  · rw [if_pos]
    refine ⟨?_, h2⟩
    cases p <;> cases d <;> simp_all [indicator]
  · rw [if_neg (fun h => h1 h.2), if_pos]
    exact ⟨by decide, h4⟩
  · rw [if_neg (fun h => h1 h.2), if_neg]
    · rcases h4 with ⟨rfl, h4⟩ | ⟨rfl, h4⟩
      · simp [timestampField, tickValue, rangeCheck_error _ _ h3 h4]
      · cases p with
        | false => simp [timestampField, tickValue, rangeCheck_error _ _ h3 h4]
        | true =>
          by_cases hh : InTsRange (roundedTicks s s.pts)
          · simp [timestampField, tickValue, rangeCheck_error _ _ h3 h4, rangeCheck_ok _ _ (.inr hh)]
          · simp [timestampField, tickValue, rangeCheck_error _ _ h3 hh]
    · rintro ⟨ha, hb⟩
      apply h2
      cases p <;> cases d <;> simp_all [indicator]

/-- The packed timestamp fields of R210 by length. -/
theorem timestampBytes_length (s : State) (p d : Bool) :
    (timestampBytes s p d).length = (if p then 5 else 0) + (if d then 5 else 0) := by
  unfold timestampBytes
  cases p <;> cases d <;> rfl

/-- BE16 by division. -/
theorem be16_eq (n : Nat) : be16 n = [BitVec.ofNat 8 (n / 256), BitVec.ofNat 8 n] := by
  unfold be16
  simp

/-- Start codes are as long as the length prefixes they replace (R273). -/
theorem startCodeFrame_length (nals : List (List Byte)) : (startCodeFrame nals).length = (avccFrame nals).length := by
  induction nals with
  | nil => rfl
  | cons n r ih =>
    simp only [startCodeFrame, avccFrame, List.flatMap_cons, List.length_append] at *
    rw [ih]
    simp [be32]

/-- The length prefix of a NAL is read back (R273). -/
theorem beValue_be32 (n : Nat) (h : n < 2 ^ 32) : beValue (be32 n) = n := by
  simp [beValue, be32]
  omega

/-- What a parsed header says of the bytes it was parsed from (R240). -/
theorem parseHdr_length {bs : List Byte} {h : PesHdr} (e : parseHdr bs = some h) :
    h.opt.length = h.hl.toNat ∧ h.hl.toNat + 3 ≤ bs.length := by
  unfold parseHdr at e
  split at e
  · split_ifs at e
    cases e
    simp at *; omega
  · cases e

/-- Parsing the bytes of a header gives the header back, whatever follows them. -/
theorem parseHdr_hdrBytes (h : PesHdr) (rest : List Byte) (hl : h.opt.length = h.hl.toNat) :
    parseHdr (hdrBytes h ++ rest) = some h := by
  obtain ⟨f0, f1, hl', opt⟩ := h
  simp only at hl
  simp [parseHdr, hdrBytes, ← hl]

/-- Everything `pesPacket` does when it builds a packet (R262). -/
theorem pesPacket_ok {sid : Byte} {h : PesHdr} {payload pkt : List Byte} (e : pesPacket sid h payload = .ok pkt) :
    (hdrBytes h).length + payload.length ≤ 65535 ∧
      pkt = startCode ++ [sid] ++ be16 ((hdrBytes h).length + payload.length) ++ hdrBytes h ++ payload ∧
      pkt.length ≤ 65541 := by
  unfold pesPacket at e
  simp only [] at e
  split_ifs at e with h1
  cases e
  refine ⟨by omega, rfl, ?_⟩
  simp [startCode, be16] at *
  omega

/-- The one code `pesPacket` raises (R261). -/
theorem pesPacket_error {sid : Byte} {h : PesHdr} {payload : List Byte} {e : Status} (he : pesPacket sid h payload = .error e) :
    e = .unrepresentableLength := by
  unfold pesPacket at he
  simp only [] at he
  split_ifs at he
  cases he
  rfl

end Sys2Proof.Machine
end

