-- ==== Sys2Proof/Laws/PerInstr.lean ====
section
/-! SUPPORT. A fact about every command as syntax: its word has the reserved bits of R141 clear. -/

namespace Sys2Proof.Laws.ReservedBitsClear

/-- The encoding of a well-formed command has bits 11:9 and 31:16 clear (R141, R143). -/
def Statement (i : Instr) : Prop := i.wellFormed = true → rsvAField (encode i) = 0 ∧ rsvBField (encode i) = 0

theorem peshTsenc : Statement .peshTsenc := fun _ => by decide

theorem ts5Enc (pfx : Nat) : Statement (.ts5Enc pfx) := by
  intro h
  have h' : pfx < 16 := by simpa [Instr.wellFormed] using h
  interval_cases pfx <;> decide

theorem peshEnc : Statement .peshEnc := fun _ => by decide

theorem peshDec : Statement .peshDec := fun _ => by decide

theorem pesBuildAudio : Statement .pesBuildAudio := fun _ => by decide

theorem pesBuildVideo : Statement .pesBuildVideo := fun _ => by decide

theorem pesDec : Statement .pesDec := fun _ => by decide

theorem tsSegment : Statement .tsSegment := fun _ => by decide

theorem tsHdrEnc : Statement .tsHdrEnc := fun _ => by decide

theorem tsHdrDec : Statement .tsHdrDec := fun _ => by decide

theorem pcrEnc : Statement .pcrEnc := fun _ => by decide

theorem tsPktEnc (useAf : Bool) : Statement (.tsPktEnc useAf) := fun _ => by cases useAf <;> decide

theorem tsPktDec : Statement .tsPktDec := fun _ => by decide

end Sys2Proof.Laws.ReservedBitsClear
end

