-- ==== Sys2Proof/Laws/Step.lean ====
section
/-! SUPPORT. What one event of the block can be, and what one host event can be. -/

namespace Sys2Proof.Machine

/-- One event that gives a next state: the ENGINE step of the pending command, the idle block, or the host's next
operation. -/
theorem step_next {s t : State} (h : step s = .next t) :
    (s.busy = true ∧ (s.delay = 0 ∨ s.host = []) ∧
      ((∃ i, decode s.cmd = .ok i ∧ exec i s = .next t) ∨ ((∃ e, decode s.cmd = .error e) ∧ t = illegalCommand s))) ∨
    (s.busy = false ∧ s.host = [] ∧ t = s) ∨
    (∃ op rest, s.host = op :: rest ∧ hostStep op { s with host := rest, delay := s.delay - 1 } = .next t) := by
  unfold step nextEvent at h
  split_ifs at h with he
  · left
    simp only [engineTurn, Bool.and_eq_true, Bool.or_eq_true, decide_eq_true_eq, List.isEmpty_iff] at he
    refine ⟨he.1, he.2, ?_⟩
    unfold engineStep at h
    split at h
    · rename_i e hd
      right
      injection h with h
      exact ⟨⟨e, hd⟩, h.symm⟩
    · rename_i i hd
      exact .inl ⟨i, hd, h⟩
  · split at h
    · rename_i hh
      injection h with h
      refine .inr (.inl ⟨?_, hh, h.symm⟩)
      cases hb : s.busy with
      | false => rfl
      | true => exact absurd (by simp [engineTurn, hb, hh]) he
    · rename_i op rest hh
      exact .inr (.inr ⟨op, rest, hh, h⟩)

/-- What a bus write can do to the block. -/
theorem busWrite_cases (w : Width) (off : Nat) (v : Word) (s : State) :
    (busWrite w off v s = (rejectAccess s, { error := true, data := none })) ∨
    (∃ r, Reg.ofOffset off = some r ∧ w = .w32 ∧ (s.busy = true → r = .ctrl ∨ r = .status) ∧
      busWrite w off v s = (writeReg r v s, { error := false, data := none })) ∨
    (Reg.ofOffset off = none ∧ s.busy = false ∧ (∀ i, i < w.bytes → bufferByte s.params (off + i) = true) ∧
      busWrite w off v s = (memWrite off (leBytes w.bytes v) s, { error := false, data := none })) := by
  unfold busWrite
  split_ifs with h
  · exact .inl rfl
  · rw [not_or] at h
    obtain ⟨h1, h2⟩ := h
    simp only [Bool.not_eq_false] at h1
    cases hr : Reg.ofOffset off with
    | some r =>
      refine .inr (.inl ⟨r, rfl, ?_, ?_, rfl⟩)
      · simp only [accessValid, hr, Bool.and_eq_true, beq_iff_eq] at h1; exact h1.2
      · intro hb
        simp only [writeBlocked, hb, Bool.true_and, Bool.and_eq_true, not_and, Reg.offset] at h2
        unfold Reg.ofOffset at hr
        split at hr <;> simp at hr <;> subst hr <;> simp at h2 ⊢
    | none =>
      simp only [accessValid, hr, Bool.and_eq_true, List.all_eq_true, List.mem_range] at h1
      refine .inr (.inr ⟨rfl, ?_, h1.2, rfl⟩)
      cases hb : s.busy with
      | false => rfl
      | true =>
        exfalso
        have hc : off ≠ Reg.ctrl.offset := by rintro rfl; simp [Reg.offset, Reg.ofOffset] at hr
        have hs : off ≠ Reg.status.offset := by rintro rfl; simp [Reg.offset, Reg.ofOffset] at hr
        exact h2 (by simp [writeBlocked, hb, hc, hs])

/-- What a bus read can do to the block: only BERR and the count of draws change. -/
theorem busRead_frame (w : Width) (off : Nat) (s : State) :
    (busRead w off s).1 = { s with berr := (busRead w off s).1.berr, draws := (busRead w off s).1.draws } := by
  unfold busRead unspecifiedRead rejectAccess
  cases Reg.ofOffset off <;> dsimp only <;> split_ifs <;> rfl

end Sys2Proof.Machine
end

