-- ==== Sys2Proof/Tests/Slice0.lean ====
section
/-! SUPPORT. Tests: ill-formed terms refused, words decoded, worked examples of 95_test_vectors.md, and for every obligation
with hypotheses a concrete state and operands that meet them. -/

namespace Sys2Proof.Tests

-- One theorem after the other: many kernel evaluations at once would ask for too many threads.
set_option Elab.async false

open Sys2Proof.Machine

/-! ### The states of the tests -/

/-- The parameters of the vectors (95_test_vectors.md, opening). -/
def params : Params where
  dtsOnly := .literal
  tsRange := .wrap
  videoDai := false
  audioHdrLen := 7
  audIdr := [0x00, 0x00, 0x00, 0x01, 0x09, 0x10]
  audNonIdr := [0x00, 0x00, 0x00, 0x01, 0x09, 0x30]
  inSize := 131072
  outSize := 262144
  cfgSize := 4096

/-- The block after reset with those parameters. -/
def start : State := { State.reset with params := params }

/-- The other choice of both timestamp policies. -/
def strict : State := { start with params := { params with dtsOnly := .reject, tsRange := .reject } }

/-- The state an ENGINE step leaves. -/
def after (i : Instr) (s : State) : State :=
  match exec i s with
  | .next t => t
  | _ => s

/-- The state a host operation leaves. -/
def afterHost (op : HostOp) (s : State) : State :=
  match hostStep op s with
  | .next t => t
  | _ => s

/-- The newest bus response. -/
def answer (op : HostOp) (s : State) : Option BusResponse := (afterHost op s).resps.head?

/-- A block with the command word `w` pending and its ENGINE step next. -/
def pending (w : Word) (s : State) : State := { s with cmd := w, busy := true, done := false, delay := 0 }

/-- The bytes 0, 1, 2, …. -/
def counting (n : Nat) : List Byte := (List.range n).map (BitVec.ofNat 8)

/-- The bytes 1 to 10. -/
def oneToTen : List Byte := [1, 2, 3, 4, 5, 6, 7, 8, 9, 10]

/-- A state with a stream of PID 0x100 to segment. -/
def segInput (n : Nat) (pcr : Bool) (cc : BitVec 4) : State :=
  { withInput (counting n) start with
    tsh := { TsHeader.default with pid := 0x100, cc := cc }, pcrV := pcr, pcrBaseLo := 90000 }

/-! ### Ill-formed terms are refused -/

theorem test_wellFormed_pfx : (Instr.ts5Enc 15).wellFormed = true ∧ (Instr.ts5Enc 16).wellFormed = false := by decide

theorem test_wellFormed_write : (HostOp.write .w8 0x7FFFF 0xFF).wellFormed = true ∧
    (HostOp.write .w32 0x80000 0).wellFormed = false ∧ (HostOp.write .w8 0x100 0x100).wellFormed = false ∧
    (HostOp.write .w16 0x100 0x10000).wellFormed = false := by decide

theorem test_wellFormed_read : (HostOp.read .w32 0x7FFFC).wellFormed = true ∧
    (HostOp.read .w32 0x80000).wellFormed = false := by decide

theorem test_wellFormed_copy : (HostOp.copyByte 0x7FFFF 0x20000).wellFormed = true ∧
    (HostOp.copyByte 0x80000 0x20000).wellFormed = false ∧ (HostOp.copyByte 0x20000 0x80000).wellFormed = false := by decide

/-- An operation the check refuses stops the model under its own name. -/
theorem test_outside_window : hostStep (.read .w32 0x80000) start = .fault (.outsideWindow 0x80000) := rfl

/-! ### Decoding: RSV_B, PREFIX, RSV_A, USE_AF and OPC written out (R141, R144) -/

theorem test_decode_peshTsenc : decode 0b0000000000000000_0000_000_0_00000001#32 = .ok .peshTsenc := by decide

theorem test_decode_ts5Enc : decode 0b0000000000000000_1111_000_0_00000010#32 = .ok (.ts5Enc 15) := by decide

theorem test_decode_peshEnc : decode 0b0000000000000000_0000_000_0_00000011#32 = .ok .peshEnc := by decide

theorem test_decode_peshDec : decode 0b0000000000000000_0000_000_0_00000100#32 = .ok .peshDec := by decide

theorem test_decode_pesBuildAudio : decode 0b0000000000000000_0000_000_0_00010000#32 = .ok .pesBuildAudio := by decide

theorem test_decode_pesBuildVideo : decode 0b0000000000000000_0000_000_0_00010001#32 = .ok .pesBuildVideo := by decide

theorem test_decode_pesDec : decode 0b0000000000000000_0000_000_0_00010010#32 = .ok .pesDec := by decide

theorem test_decode_tsSegment : decode 0b0000000000000000_0000_000_0_00100000#32 = .ok .tsSegment := by decide

theorem test_decode_tsHdrEnc : decode 0b0000000000000000_0000_000_0_00110000#32 = .ok .tsHdrEnc := by decide

theorem test_decode_tsHdrDec : decode 0b0000000000000000_0000_000_0_00110001#32 = .ok .tsHdrDec := by decide

theorem test_decode_pcrEnc : decode 0b0000000000000000_0000_000_0_00110010#32 = .ok .pcrEnc := by decide

theorem test_decode_tsPktEnc : decode 0b0000000000000000_0000_000_0_00110011#32 = .ok (.tsPktEnc false) ∧
    decode 0b0000000000000000_0000_000_1_00110011#32 = .ok (.tsPktEnc true) := by decide

theorem test_decode_tsPktDec : decode 0b0000000000000000_0000_000_0_00110100#32 = .ok .tsPktDec := by decide

/-- 95_test_vectors.md section 3.10, the words that are illegal. -/
theorem test_decode_illegal :
    ([0x00000000, 0x00000005, 0x0000000F, 0x00000013, 0x00000021, 0x00000035, 0x000000FF, 0x00000101, 0x00001001,
      0x00000233, 0x00010020] : List Word).all (fun w => (decode w).toOption.isNone) = true := by decide

theorem test_decodeTableWord : decodeTableWord 32 0x133 = some (.tsPktEnc true) ∧ decodeTableWord 32 0x101 = none ∧
    decodeTableWord 64 (2 ^ 32 + 0x20) = none := by decide

/-! ### The commands, on the vectors of 95_test_vectors.md sections 3.2 to 3.9 -/

theorem test_peshTsenc_both :
    let t := after .peshTsenc { start with ptsV := true, dtsV := true, ptsLo := 9009, dtsLo := 6006, t0Lo := 6006 }
    readReg .hdrCtrl t = 0x000AC080 ∧ t.err = 0 ∧
      memRead hdrOptBase 10 t = [0x31, 0x00, 0x01, 0x17, 0x77, 0x11, 0x00, 0x01, 0x00, 0x01] := by decide +kernel

theorem test_peshTsenc_dts_only :
    (after .peshTsenc { start with dtsV := true }).hdrCtrl.word = 0x00054080 ∧
      (after .peshTsenc { strict with dtsV := true }).err = 8 ∧
      (after .peshTsenc { strict with dtsV := true }).hdrCtrl.word = 0x00000080 := by decide +kernel

theorem test_ts5Enc_bytes :
    memRead outBase 5 (after (.ts5Enc 3) { start with ptsHi := 1, ptsLo := 0x23456789 }) =
      [0x39, 0x8D, 0x15, 0xCF, 0x13] ∧
    memRead outBase 5 (after (.ts5Enc 15) { start with ptsHi := 1, ptsLo := 0xFFFFFFFF }) =
      [0xFF, 0xFF, 0xFF, 0xFF, 0xFF] := by decide +kernel

theorem test_ts5Enc_range :
    (after (.ts5Enc 2) { start with ptsHi := 2, outLen := 9 }).err = 6 ∧
      (after (.ts5Enc 2) { start with ptsHi := 2, outLen := 9 }).outLen = 0 ∧
      (after (.ts5Enc 2) { start with ptsHi := 2 }).mem = [] := by decide +kernel

theorem test_peshEnc_bytes :
    let t := after .peshEnc (memWrite hdrOptBase [0x21, 0x00, 0x05, 0xBF, 0x21]
      { start with hdrCtrl := { f0 := 0x84, f1 := 0x80, hl := 5 } })
    memRead outBase 8 t = [0x84, 0x80, 0x05, 0x21, 0x00, 0x05, 0xBF, 0x21] ∧ t.outLen = 8 := by decide +kernel

theorem test_peshEnc_unchecked :
    let t := after .peshEnc { start with hdrCtrl := { f0 := 0xFF, f1 := 0x41, hl := 0xFF } }
    memRead outBase 4 t = [0xFF, 0x41, 0xFF, 0x00] ∧ t.byteAt (outBase + 257) = 0x00 ∧ t.outLen = 258 ∧ t.err = 0 := by
  decide +kernel

theorem test_peshDec_header :
    let t := after .peshDec (withInput [0x84, 0x80, 0x05, 0x21, 0x00, 0x05, 0xBF, 0x21] start)
    t.hdrCtrl.word = 0x00058084 ∧ memRead hdrOptBase 5 t = [0x21, 0x00, 0x05, 0xBF, 0x21] ∧ t.err = 0 := by
  decide +kernel

theorem test_peshDec_cut :
    let t := after .peshDec (withInput [0x84, 0x80, 0x05, 0x21, 0x00, 0x05, 0xBF] start)
    t.hdrCtrl.word = 0x00000080 ∧ readReg .diag t = 0x00010001 ∧ t.err = 1 := by decide +kernel

theorem test_pesBuildAudio_packet :
    let t := after .pesBuildAudio { withInput oneToTen start with
      cfgV := true, streamId := 0xC0, ptsV := true, ptsLo := 1000, timescale := 1000 }
    memRead outBase 14 t = [0x00, 0x00, 0x01, 0xC0, 0x00, 0x19, 0x84, 0x80, 0x05, 0x21, 0x00, 0x05, 0xBF, 0x21] ∧
      memRead (outBase + 21) 10 t = oneToTen ∧ t.outLen = 31 ∧ t.err = 0 := by decide +kernel

theorem test_pesBuildAudio_unconfigured :
    (after .pesBuildAudio (withInput oneToTen start)).err = 3 ∧
      (after .pesBuildAudio { withInput oneToTen start with outLen := 7 }).outLen = 0 := by decide +kernel

/-- The key frame of R275 and program P1. -/
def keyFrame : State :=
  { memWrite cfgBase [0x67, 0x42, 0x00, 0x1E, 0x68, 0xCE, 0x3C, 0x80]
      (withInput [0x00, 0x00, 0x00, 0x03, 0x65, 0x88, 0x84] start) with
    spsLen := 4, ppsLen := 4, cfgV := true, streamId := 0xE0, ptsV := true, dtsV := true
    ptsLo := 126000, dtsLo := 123000 }

/-- The packet of the key frame. -/
def keyPacket : List Byte :=
  [0x00, 0x00, 0x01, 0xE0, 0x00, 0x2A, 0x80, 0xC0, 0x0A, 0x31, 0x00, 0x07, 0xD8, 0x61, 0x11, 0x00, 0x07, 0xC0, 0xF1,
    0x00, 0x00, 0x00, 0x01, 0x09, 0x10, 0x00, 0x00, 0x00, 0x01, 0x67, 0x42, 0x00, 0x1E, 0x00, 0x00, 0x00, 0x01, 0x68,
    0xCE, 0x3C, 0x80, 0x00, 0x00, 0x00, 0x01, 0x65, 0x88, 0x84]

theorem test_pesBuildVideo_key_frame :
    memRead outBase 48 (after .pesBuildVideo keyFrame) = keyPacket ∧ (after .pesBuildVideo keyFrame).outLen = 48 := by
  decide +kernel

theorem test_pesBuildVideo_truncated_nal :
    let t := after .pesBuildVideo (withInput [0x00, 0x00, 0x00, 0x05, 0x01, 0x02] start)
    t.err = 1 ∧ t.outLen = 0 ∧ readReg .diag t = 0x00010001 := by decide +kernel

theorem test_pesDec_key_frame :
    let t := after .pesDec (withInput keyPacket start)
    t.pesdSid = 0xE0 ∧ t.pesdLen = 0x002A ∧ t.hdrCtrl.word = 0x000AC080 ∧ t.outLen = 29 ∧
      memRead outBase 29 t = keyPacket.drop 19 ∧
      memRead hdrOptBase 10 t = [0x31, 0x00, 0x07, 0xD8, 0x61, 0x11, 0x00, 0x07, 0xC0, 0xF1] := by decide +kernel

theorem test_pesDec_cut_header :
    let t := after .pesDec (withInput [0x00, 0x00, 0x01, 0xE0, 0x00, 0x05, 0x80, 0x80, 0x05, 0x21, 0x00] start)
    t.pesdLen = 5 ∧ t.hdrCtrl.word = 0x00000080 ∧ memRead outBase 2 t = [0x21, 0x00] ∧ t.outLen = 2 ∧ t.err = 0 ∧
      readReg .diag t = 0x00010001 ∧
      (after .pesDec (withInput [0x00, 0x00, 0x02, 0xE0, 0x00, 0x00] start)).err = 4 := by decide +kernel

/-- L = 185 without a PCR, CC 14. -/
theorem test_tsSegment_two_packets :
    let t := after .tsSegment (segInput 185 false 14)
    t.pktCount = 2 ∧ t.outLen = 376 ∧ t.tsh.word = 0x47010000 ∧
      memRead outBase 5 t = [0x47, 0x41, 0x00, 0x1E, 0x00] ∧
      memRead (outBase + 187) 8 t = [183, 0x47, 0x01, 0x00, 0x3F, 0xB6, 0x00, 0xFF] ∧
      memRead (outBase + 374) 2 t = [0xFF, 184] := by decide +kernel

/-- L = 359 with a PCR, CC 3: the r = 183 split. -/
theorem test_tsSegment_split :
    let t := after .tsSegment (segInput 359 true 3)
    t.pktCount = 3 ∧ t.tsh.word = 0x47010006 ∧
      memRead outBase 13 t = [0x47, 0x41, 0x00, 0x33, 0x07, 0x10, 0x00, 0x00, 0xAF, 0xC8, 0x7E, 0x00, 0x00] ∧
      memRead (outBase + 187) 8 t = [175, 0x47, 0x01, 0x00, 0x34, 0x01, 0x00, 176] ∧
      memRead (outBase + 375) 7 t = [101, 0x47, 0x01, 0x00, 0x35, 0xB6, 0x00] ∧
      memRead (outBase + 562) 2 t = [0xFF, 102] := by decide +kernel

theorem test_tsHdrEnc_bytes :
    let t := after .tsHdrEnc (afterHost (.write .w32 0x080 0xFFFFFFFF) start)
    memRead outBase 4 t = [0x47, 0xFF, 0xFF, 0xFF] ∧ t.outLen = 4 := by decide +kernel

theorem test_tsHdrDec_header :
    let t := after .tsHdrDec (withInput [0x47, 0xAA, 0xBC, 0xB9] start)
    readReg .tsh t = 0x47AABCB9 ∧
      t.tsh = { tei := true, pusi := false, prio := true, pid := 0x0ABC, sc := 2, af := true, pl := true, cc := 9 } := by
  decide +kernel

theorem test_tsHdrDec_sync :
    let t := after .tsHdrDec (withInput [0x46, 0x41, 0x00, 0x10] start)
    readReg .tsh t = 0x47000000 ∧ t.err = 1 ∧ readReg .diag t = 0x00010001 := by decide +kernel

theorem test_pcrEnc_bytes :
    memRead outBase 6 (after .pcrEnc { start with pcrBaseHi := 1, pcrBaseLo := 0x23456789, pcrExt := 0x1AB }) =
      [0x91, 0xA2, 0xB3, 0xC4, 0xFF, 0xAB] ∧
    memRead outBase 6 (after .pcrEnc { start with pcrExt := 299 }) = [0x00, 0x00, 0x00, 0x00, 0x7F, 0x2B] := by
  decide +kernel

/-- The first row of 95_test_vectors.md section 3.8. -/
def pcrPacketInput : State :=
  { withInput oneToTen start with
    tsh := TsHeader.ofWord 0x47410020, afFlags := 0x10, pcrBaseHi := 1, pcrBaseLo := 0x23456789, pcrExt := 0x1AB }

/-- The packet of that row. -/
def pcrPacket : List Byte :=
  [0x47, 0x41, 0x00, 0x30, 0xAD, 0x10, 0x91, 0xA2, 0xB3, 0xC4, 0xFF, 0xAB] ++ List.replicate 166 0xFF ++ oneToTen

theorem test_tsPktEnc_pcr :
    let t := after (.tsPktEnc true) pcrPacketInput
    memRead outBase 188 t = pcrPacket ∧ t.fillCount = 10 ∧ t.tsh.word = 0x47410030 ∧ t.err = 0 := by decide +kernel

theorem test_tsPktEnc_padding :
    let t := after (.tsPktEnc false) { withInput oneToTen start with tsh := TsHeader.ofWord 0x47AABCA9 }
    memRead outBase 188 t = [0x47, 0xAA, 0xBC, 0xB9, 0x01, 0x00] ++ oneToTen ++ List.replicate 172 0xFF ∧
      t.tsh.word = 0x47AABCB9 ∧ t.fillCount = 10 := by decide +kernel

theorem test_tsPktDec_pcr :
    let t := after .tsPktDec (withInput pcrPacket start)
    t.tsh.word = 0x47410030 ∧ t.afLen = 0xAD ∧ t.afFlags = 0x10 ∧ t.pcrV = true ∧ t.pcrBase = 0x123456789 ∧
      t.pcrExt = 0x1AB ∧ memRead outBase 10 t = oneToTen ∧ t.outLen = 10 := by decide +kernel

theorem test_tsPktDec_too_long_field :
    let t := after .tsPktDec (withInput ([0x47, 0x01, 0x00, 0x30, 0xB8] ++ List.replicate 183 0x00) { start with afLen := 9 })
    t.tsh.word = 0x47000000 ∧ t.afLen = 0 ∧ t.err = 1 := by decide +kernel

/-! ### Witnesses: encoding and the step -/

theorem witness_decodeEncode : (Instr.ts5Enc 0).wellFormed = true ∧ (Instr.ts5Enc 15).wellFormed = true ∧
    (Instr.tsPktEnc true).wellFormed = true := by decide

theorem witness_encodeDecode : decode 0x00000133 = .ok (.tsPktEnc true) ∧ decode 0x0000F002 = .ok (.ts5Enc 15) := by decide

/-- A reserved opcode, reserved bits 9, 11, 16 and 31, USE_AF and PREFIX where they are not allowed, each pending. -/
theorem witness_illegalWords :
    ∀ p ∈ ([(0x35, .reservedOpcode), (0x233, .reservedBits), (0x833, .reservedBits), (0x10020, .reservedBits),
      (0x80000020, .reservedBits), (0x101, .useAfNotAllowed), (0x1001, .pfxNotAllowed), (0xF001, .pfxNotAllowed)] :
      List (Word × DecodeError)),
      decode p.1 = .error p.2 ∧ (pending p.1 start).cmd = p.1 ∧ (pending p.1 start).busy = true ∧
        (pending p.1 start).delay = 0 := by decide

theorem witness_stepRuns : (pending 0x133 start).busy = true ∧ (pending 0x133 start).delay = 0 ∧
    (Instr.tsPktEnc true).wellFormed = true ∧ decode (pending 0x133 start).cmd = .ok (.tsPktEnc true) := by decide

/-- The same with a delay that the host does not use up. -/
theorem witness_stepRuns_no_host : ({ pending 0x20 start with delay := 3 } : State).busy = true ∧
    ({ pending 0x20 start with delay := 3 } : State).host = [] ∧ decode 0x20 = .ok .tsSegment := by decide

theorem witness_stepWithoutEngineTurn_idle : start.busy = false ∧ start.host = [] := by decide

theorem witness_stepWithoutEngineTurn_host :
    ({ pending 0x20 start with delay := 1, host := [.wait] } : State).delay ≠ 0 ∧
      ({ pending 0x20 start with delay := 1, host := [.wait] } : State).host = .wait :: [] := by decide

theorem witness_pendingCommandEnds :
    let s : State := { pending 0x20 start with delay := 2, host := [.wait, .write .w32 0x008 3, .copyByte 0x7FFFF 0x20000] }
    s.busy = true ∧ ∀ op ∈ s.host, op.wellFormed = true := by decide

theorem start_inv : Inv start := by
  constructor <;> decide +kernel

/-- A pending command in a state with the invariant, its step, and a host write in one. -/
theorem witness_invariantKept : Inv (pending 0x32 start) ∧ (∃ t, step (pending 0x32 start) = .next t) ∧
    Inv { start with host := [.write .w8 0x100 1] } ∧
    ∃ t, step { start with host := [.write .w8 0x100 1] } = .next t := by
  refine ⟨?_, ⟨_, rfl⟩, ?_, ⟨_, rfl⟩⟩ <;> constructor <;> decide +kernel

/-! ### Witnesses: the host port -/

theorem start_defaultSizes : start.params.defaultSizes := ⟨rfl, rfl, rfl⟩

/-- The boundaries of every rejected range: misaligned, reserved register offsets, a register with another width, the gaps. -/
theorem witness_accessRejected : AccessRejected .w16 0x101 ∧ AccessRejected .w32 0x7FFFE ∧ AccessRejected .w32 0x028 ∧
    AccessRejected .w32 0x0FC ∧ AccessRejected .w8 0x000 ∧ AccessRejected .w16 0x098 ∧ AccessRejected .w8 0x200 ∧
    AccessRejected .w8 0xFFF ∧ AccessRejected .w8 0x2000 ∧ AccessRejected .w8 0x1FFFF := by
  refine ⟨.inl (by decide), .inl (by decide), ?_, ?_, ?_, ?_, ?_, ?_, ?_, ?_⟩
  · exact .inr (.inl ⟨by decide, .inl (by intro r; cases r <;> decide)⟩)
  · exact .inr (.inl ⟨by decide, .inl (by intro r; cases r <;> decide)⟩)
  · exact .inr (.inl ⟨by decide, .inr (by decide)⟩)
  · exact .inr (.inl ⟨by decide, .inr (by decide)⟩)
  · exact .inr (.inr (.inl (by decide)))
  · exact .inr (.inr (.inl (by decide)))
  · exact .inr (.inr (.inr (by decide)))
  · exact .inr (.inr (.inr (by decide)))

/-- The boundaries of the accepted ranges. -/
theorem witness_accessAccepted : ¬AccessRejected .w32 Reg.id.offset ∧ ¬AccessRejected .w32 Reg.pcrExt.offset ∧
    ¬AccessRejected .w8 0x100 ∧ ¬AccessRejected .w8 0x1FF ∧ ¬AccessRejected .w32 0x1000 ∧ ¬AccessRejected .w16 0x1FFE ∧
    ¬AccessRejected .w8 0x20000 ∧ ¬AccessRejected .w32 0x7FFFC := by
  have h : ∀ w r, ¬AccessRejected w (Reg.offset r) ∨ w ≠ .w32 ∨ Reg.offset r % 4 ≠ 0 ∨ 0x100 ≤ Reg.offset r := by
    intro w r
    by_contra hc
    rw [not_or, not_or, not_or, not_not] at hc
    obtain ⟨ha, hw, hm, hl⟩ := hc
    rcases ha with ha | ⟨-, ha⟩ | ha | ha
    · cases w <;> simp_all [Width.bytes]
    · rcases ha with ha | ha
      · exact ha r rfl
      · exact hw ha
    · omega
    · omega
  refine ⟨?_, ?_, ?_, ?_, ?_, ?_, ?_, ?_⟩
  · exact (h .w32 .id).resolve_right (by decide)
  · exact (h .w32 .pcrExt).resolve_right (by decide)
  all_goals simp [AccessRejected, Width.bytes]

theorem witness_blockedWrite : (pending 0x20 start).busy = true ∧ (0x010 : Nat) ≠ 0x008 ∧ (0x010 : Nat) ≠ 0x00C ∧
    (0x100 : Nat) < windowSize := by decide

/-- Reads of a busy block: the ends of the buffers, and a register that is not one of the five. -/
theorem witness_readsWhileBusy : (pending 0x20 start).busy = true ∧ accessValid params .w8 0x100 = true ∧
    accessValid params .w32 0x7FFFC = true ∧ accessValid params .w32 0x018 = true ∧
    (∀ r ∈ [Reg.status, Reg.id, Reg.version, Reg.ctrl, Reg.cmd], r.offset ≠ 0x018) := by decide +kernel

theorem witness_bufferAccesses : start.busy = false ∧ accessValid start.params .w32 0x100 = true ∧
    accessValid start.params .w16 0x1FE = true ∧ accessValid start.params .w8 0x7FFFF = true := by decide +kernel

theorem witness_idle_registers : start.busy = false ∧ Reg.hasWriteEffect .hdrCtrl = false ∧ Reg.hasWriteEffect .id = false ∧
    Reg.ofOffset 0x000 = some .id ∧ Reg.ofOffset 0x098 = some .pcrExt := by decide

/-- A write of CTRL without SRST, idle and while BUSY, and an empty log. -/
theorem witness_ctrlWrite : (0x00000001 : Word).getLsbD 1 = false ∧ (0xFFFFFFFD : Word).getLsbD 1 = false ∧
    start.diag = { last := 0, count := 0 } := by decide

theorem witness_commandWrite : start.busy = false ∧ (pending 0x20 start).busy = true := by decide

/-- A soft reset with and without a command to abandon, and the ends of the regions. -/
theorem witness_softReset : (0x00000002 : Word).getLsbD 1 = true ∧ start.busy = false ∧ (pending 0x20 start).busy = true ∧
    inHdrOptRegion 0x100 = true ∧ inHdrOptRegion 0x1FF = true ∧ inHdrOptRegion 0x0FF = false ∧ inHdrOptRegion 0x200 = false ∧
    inOutRegion 0x3FFFF = false ∧ inOutRegion 0x40000 = true ∧ inOutRegion 0x7FFFF = true := by decide

theorem witness_interruptLevel : (∃ t, exec .tsHdrEnc start = .next t) ∧
    (∃ t, hostStep (.write .w32 0x008 1) start = .next t) ∧
    ((0x00000002 : Word).getLsbD 1 = true ∧ ∃ t, hostStep (.write .w32 0x00C 2) start = .next t) ∧
    (start.busy = false ∧ ∃ t, hostStep (.write .w32 0x010 0x20) start = .next t) ∧
    ∃ t, hostStep .powerOn start = .next t :=
  ⟨⟨_, rfl⟩, ⟨_, rfl⟩, ⟨by decide, _, rfl⟩, ⟨rfl, _, rfl⟩, ⟨_, rfl⟩⟩

/-- A copy of the last bytes of IN_BUF to the first of OUT_BUF. -/
theorem witness_hostCopy :
    let s : State := { start with host := hostCopy 0x3FFFD 0x40000 3 }
    s.busy = false ∧ s.host = hostCopy 0x3FFFD 0x40000 3 ∧
      (∀ i, i < 3 → bufferByte s.params (0x3FFFD + i) = true ∧ bufferByte s.params (0x40000 + i) = true) ∧
      0x3FFFD + 3 ≤ windowSize ∧ 0x40000 + 3 ≤ windowSize ∧ 0x3FFFD + 3 ≤ 0x40000 := by decide +kernel

/-! ### Witnesses: all commands -/

/-- A command that stores to both buffers, and the last byte it stores to and the first it does not in each. -/
theorem witness_byteWritten : start.params.wf = true ∧
    (let t := after .pesDec (withInput keyPacket start);
      byteWritten .pesDec t (hdrOptBase + 9) = true ∧ byteWritten .pesDec t (hdrOptBase + 10) = false ∧
        byteWritten .pesDec t (outBase + 28) = true ∧ byteWritten .pesDec t (outBase + 29) = false) ∧
    byteWritten .tsHdrDec (after .tsHdrDec (withInput [0x47, 0x41, 0x00, 0x10] start)) outBase = false ∧
    byteWritten .pesBuildAudio (after .pesBuildAudio start) outBase = false := by decide +kernel

theorem witness_commandsWriteOnly : start.params.wf = true ∧ (∃ t, exec .peshEnc start = .next t) ∧
    inHdrOptRegion 0x0FF = false ∧ inHdrOptRegion 0x200 = false ∧ (0x3FFFF : Nat) < outBase ∧
    outBase + start.params.outSize ≤ 0x80000 := ⟨by decide, ⟨_, rfl⟩, by decide⟩

/-- What a command's `after` has holds of the next state it answers. -/
theorem completes_with {i : Instr} {s : State} {p : State → Prop} (h : p (after i s)) :
    ∃ t, exec i s = .next t ∧ p t := by
  cases i <;> exact ⟨_, rfl, h⟩

/-- An error of every command whose error writes more than OUT_LEN. -/
theorem witness_errorAtomicity :
    (∃ t, exec .peshDec start = .next t ∧ t.err = 1) ∧ (∃ t, exec .tsHdrDec start = .next t ∧ t.err = 1) ∧
    (∃ t, exec .tsPktDec start = .next t ∧ t.err = 1) ∧
    (∃ t, exec .tsSegment { start with inLen := 131073 } = .next t ∧ t.err = 6) ∧
    (∃ t, exec (.tsPktEnc true) { start with inLen := 131073 } = .next t ∧ t.err = 6) ∧
    ∃ t, exec .pesBuildAudio start = .next t ∧ t.err = 3 :=
  by and_intros <;> exact completes_with (by decide +kernel)

/-- A logged completion, the completion of a cut PES header, and one that is not logged. -/
theorem witness_diagnosticLog :
    (∃ t, exec .tsHdrDec start = .next t ∧ t.err = 1) ∧
    (∃ t, exec .pesDec (withInput (keyPacket.take 8) start) = .next t ∧ t.err = 0 ∧
      (withInput (keyPacket.take 8) start).inLen.toNat < 9) ∧
    (∃ t, exec .pesDec (withInput (keyPacket.take 18) start) = .next t ∧ t.err = 0 ∧
      (withInput (keyPacket.take 18) start).inLen.toNat < 9 + ((withInput (keyPacket.take 18) start).byteAt (inBase + 8)).toNat) ∧
    (∃ t, exec .pesDec (withInput (keyPacket.take 19) start) = .next t ∧ t.err = 0) ∧ start.busy = false := by
  refine ⟨completes_with ?_, completes_with ?_, completes_with ?_, completes_with ?_, rfl⟩ <;> decide +kernel

/-- Two states that differ in OUT_BUF bytes only. -/
theorem witness_outBufIsNeverAnInput : start.params.wf = true ∧
    SameBytesOutsideOut start { start with mem := [(0x40000, 5), (0x7FFFF, 6)] } ∧ ∃ t, exec .pcrEnc start = .next t := by
  refine ⟨by decide, fun a h => ?_, ⟨_, rfl⟩⟩
  have h1 : a ≠ 0x40000 := by rintro rfl; exact absurd h (by decide)
  have h2 : a ≠ 0x7FFFF := by rintro rfl; exact absurd h (by decide)
  simp [State.byteAt, State.unlistedByte, Memory.find, start, State.reset, h1.symm, h2.symm]

/-! ### Witnesses: PES headers and packets -/

theorem witness_roundHalfAway : (0 : Nat) < 1 ∧ (0 : Int) ≤ 0 ∧ (-1 : Int) < 0 := by decide

/-- Two values of the vectors of S6, a tick apart and in range. -/
theorem witness_tickValueMonotone :
    let s : State := { start with timescale := 1000 }
    s.timescale ≠ 0 ∧ (1000 : Int) < 1001 ∧ InTsRange (roundedTicks s 1000) ∧ InTsRange (roundedTicks s 1001) ∧
      (s.timescale.toNat : Int) ≤ (1001 - 1000) * 90000 := by
  unfold InTsRange
  decide +kernel

/-- Every set of provided timestamps, the ends of the timestamp range under Reject, and no timestamp with TIMESCALE = 0. -/
theorem witness_timestampsEncodable : TimestampsEncodable start true true ∧ TimestampsEncodable start true false ∧
    TimestampsEncodable start false true ∧ TimestampsEncodable { start with timescale := 0 } false false ∧
    TimestampsEncodable { strict with ptsHi := 1, ptsLo := 0xFFFFFFFF } true true := by
  refine ⟨?_, ?_, ?_, ?_, ?_⟩ <;> unfold TimestampsEncodable InTsRange <;> decide +kernel

/-- Every timestamp error, at the first value out of range on either side. -/
theorem witness_timestampRaises : TimestampRaises { start with timescale := 0 } true false .invalidOperand ∧
    TimestampRaises strict false true .invalidTimestampCombination ∧
    TimestampRaises { strict with ptsHi := 2 } true false .timestampOutOfRange ∧
    TimestampRaises { strict with dtsHi := 0xFFFFFFFF, dtsLo := 0xFFFFFFFF } true true .timestampOutOfRange := by
  refine ⟨?_, ?_, ?_, ?_⟩ <;> unfold TimestampRaises InTsRange <;> decide +kernel

/-- The largest value TS5_ENC takes and the least it does not. -/
theorem witness_ts5Enc : (15 : Nat) < 16 ∧
    ({ start with ptsHi := 1, ptsLo := 0xFFFFFFFF } : State).ptsRaw = 2 ^ 33 - 1 ∧
    ({ start with ptsHi := 2, ptsLo := 0 } : State).ptsRaw = 2 ^ 33 := by decide +kernel

/-- PESH_DEC: too long an input, a cut fixed section, a cut header, and the least whole ones. -/
theorem witness_peshDec : start.params.inSize < ({ start with inLen := 131073 } : State).inLen.toNat ∧
    (withInput [0x80, 0x00] start).inLen.toNat < 3 ∧ (withInput [0x80, 0x00, 0x00] start).inLen.toNat = 3 + 0 ∧
    (after .peshDec (withInput [0x80, 0x00, 0x01] start)).err = 1 ∧
    (after .peshDec (withInput [0x80, 0x00, 0x01, 0xFF] start)).err = 0 := by decide +kernel

theorem witness_headerRoundTrip : start.params.wf = true ∧ (counting 256).length ≤ 256 ∧
    ∃ t, exec .peshEnc { start with hdrCtrl := { f0 := 0xFF, f1 := 0x41, hl := 0xFF } } = .next t :=
  ⟨by decide, by decide +kernel, _, rfl⟩

/-- A frame of two NAL units, one of them empty, and a truncated one. -/
theorem witness_annexB :
    annexB [0x00, 0x00, 0x00, 0x02, 0x41, 0x9A, 0x00, 0x00, 0x00, 0x00] =
      some [0x00, 0x00, 0x00, 0x01, 0x41, 0x9A, 0x00, 0x00, 0x00, 0x01] ∧
    annexB [0x00, 0x00, 0x00, 0x05, 0x01, 0x02] = none := by decide +kernel

/-- The longest audio access units (S5 of the vectors): 65520 bytes with a PTS, 65525 without. -/
theorem witness_pesBuildAudio :
    let s : State := { start with cfgV := true, ptsV := true, inLen := 65520 }
    let s0 : State := { start with cfgV := true, inLen := 65525 }
    (s.inLen.toNat ≤ s.params.inSize ∧ s.cfgV = true ∧
      3 + (timestampBytes s s.ptsV false).length + s.params.audioHdrLen + s.inLen.toNat = 65535) ∧
    (s0.inLen.toNat ≤ s0.params.inSize ∧
      3 + (timestampBytes s0 s0.ptsV false).length + s0.params.audioHdrLen + s0.inLen.toNat = 65535) := by decide +kernel

theorem witness_pesBuildAudio_encodable :
    TimestampsEncodable { start with cfgV := true, ptsV := true, inLen := 65520 } true false := by
  unfold TimestampsEncodable InTsRange
  decide +kernel

/-- Each error of PES_BUILD_AUDIO at the least value that raises it. -/
theorem witness_pesBuildAudioErrors_operands :
    start.params.inSize < ({ start with inLen := 131073 } : State).inLen.toNat ∧
    start.inLen.toNat ≤ start.params.inSize ∧ start.cfgV = false := by decide +kernel

theorem witness_pesBuildAudioErrors_timestamp :
    let s : State := { start with cfgV := true, ptsV := true, timescale := 0 }
    s.inLen.toNat ≤ s.params.inSize ∧ s.cfgV = true ∧ TimestampRaises s s.ptsV false .invalidOperand := by
  unfold TimestampRaises InTsRange
  decide +kernel

theorem witness_pesBuildAudioErrors_long :
    let s : State := { start with cfgV := true, ptsV := true, inLen := 65521 }
    s.inLen.toNat ≤ s.params.inSize ∧ TimestampsEncodable s s.ptsV false ∧
      65535 < 3 + (timestampBytes s s.ptsV false).length + s.params.audioHdrLen + s.inLen.toNat := by
  unfold TimestampsEncodable InTsRange
  decide +kernel

/-- A frame of one empty NAL unit, with `n` bytes before it that the parameters make. -/
def longPreamble (n : Nat) : State :=
  { withInput [0x00, 0x00, 0x00, 0x00] start with params := { params with audNonIdr := List.replicate n 0x00 } }

theorem longPreamble_length (n : Nat) : (longPreamble n).params.audNonIdr.length = n := List.length_replicate

theorem longPreamble_frame (n : Nat) : (longPreamble n).inLen.toNat ≤ (longPreamble n).params.inSize ∧
    (longPreamble n).cfgV = false ∧ TimestampsEncodable (longPreamble n) (longPreamble n).ptsV (longPreamble n).dtsV ∧
    nalsFit [[]] ∧ memRead inBase (longPreamble n).inLen.toNat (longPreamble n) = avccFrame [[]] := by
  refine ⟨by change (4#32).toNat ≤ 131072; decide, rfl, ⟨fun h => ?_, fun h => ?_, .inl rfl⟩, by simp [nalsFit], by rfl⟩
  · rcases h with h | h <;> cases h
  · cases h.2

/-- The key frame of R275. -/
theorem witness_pesBuildVideo_key_frame :
    let nals : List (List Byte) := [[0x65, 0x88, 0x84]]
    keyFrame.inLen.toNat ≤ keyFrame.params.inSize ∧
      (keyFrame.cfgV = true → keyFrame.spsLen.toNat + keyFrame.ppsLen.toNat ≤ keyFrame.params.cfgSize) ∧
      TimestampsEncodable keyFrame keyFrame.ptsV keyFrame.dtsV ∧ nalsFit nals ∧
      memRead inBase keyFrame.inLen.toNat keyFrame = avccFrame nals ∧
      3 + (timestampBytes keyFrame true true).length + (6 + 4 + 4 + 4 + 4) + keyFrame.inLen.toNat ≤ 65535 := by
  unfold TimestampsEncodable InTsRange nalsFit
  decide +kernel

/-- The largest video packet, and the least frame that is too long (with the facts of `longPreamble_frame`). -/
theorem witness_pesBuildVideo_longest :
    3 + (timestampBytes (longPreamble 65528) false false).length + (longPreamble 65528).params.audNonIdr.length + 4 =
      65535 ∧
    65535 < 3 + (timestampBytes (longPreamble 65529) false false).length + (longPreamble 65529).params.audNonIdr.length + 4 := by
  rw [longPreamble_length, longPreamble_length, show (timestampBytes (longPreamble 65528) false false).length = 0 from rfl,
    show (timestampBytes (longPreamble 65529) false false).length = 0 from rfl]
  omega

/-- Each error of PES_BUILD_VIDEO but the length: the operands (both clauses), a timestamp, and, below, a truncated NAL. -/
theorem witness_pesBuildVideoErrors_operands :
    start.params.inSize < ({ start with inLen := 131073 } : State).inLen.toNat ∧
    ¬(({ start with cfgV := true, spsLen := 4096, ppsLen := 1 } : State).cfgV = true →
      ({ start with cfgV := true, spsLen := 4096, ppsLen := 1 } : State).spsLen.toNat +
        ({ start with cfgV := true, spsLen := 4096, ppsLen := 1 } : State).ppsLen.toNat ≤ start.params.cfgSize) := by
  decide +kernel

theorem witness_pesBuildVideoErrors_timestamp :
    let s : State := { strict with dtsV := true }
    s.inLen.toNat ≤ s.params.inSize ∧ s.cfgV = false ∧
      TimestampRaises s s.ptsV s.dtsV .invalidTimestampCombination := by
  unfold TimestampRaises InTsRange
  decide +kernel

/-- No sequence of NAL units makes a frame of three bytes: a length prefix has four. -/
theorem witness_pesBuildVideoErrors_malformed :
    let s := withInput [0x00, 0x00, 0x01] start
    s.inLen.toNat ≤ s.params.inSize ∧ s.cfgV = false ∧ s.ptsV = false ∧ s.dtsV = false ∧
      ¬∃ nals, nalsFit nals ∧ memRead inBase s.inLen.toNat s = avccFrame nals := by
  refine ⟨by decide +kernel, rfl, rfl, rfl, ?_⟩
  rintro ⟨nals, -, h⟩
  have hl := congrArg List.length h
  rw [show memRead inBase (withInput [0x00, 0x00, 0x01] start).inLen.toNat (withInput [0x00, 0x00, 0x01] start) =
    [0x00, 0x00, 0x01] by decide +kernel] at hl
  cases nals with
  | nil => simp [avccFrame] at hl
  | cons n rest =>
    simp only [avccFrame, List.flatMap_cons, be32, List.length_cons, List.length_append, List.length_nil] at hl
    omega

/-- The audio access unit of 70000 bytes of S5. -/
theorem witness_overlong_audio :
    let s : State := { start with cfgV := true, inLen := 70000 }
    70000 ≤ s.inLen.toNat ∧ s.inLen.toNat ≤ s.params.inSize ∧ s.cfgV = true ∧ TimestampsEncodable s s.ptsV false := by
  unfold TimestampsEncodable InTsRange
  decide +kernel

/-- A frame of one NAL of `n` bytes, loaded. -/
theorem oneNal_loaded (n : Nat) (h : n + 4 < 2 ^ 32) :
    let s := withInput (avccFrame [List.replicate n 0x41]) start
    s.inLen.toNat = n + 4 ∧ TimestampsEncodable s s.ptsV s.dtsV ∧ s.cfgV = false ∧ nalsFit [List.replicate n 0x41] ∧
      memRead inBase s.inLen.toNat s = avccFrame [List.replicate n 0x41] := by
  have hl : (avccFrame [List.replicate n 0x41]).length = n + 4 := by simp [avccFrame, be32]
  have hn : (withInput (avccFrame [List.replicate n 0x41]) start).inLen.toNat = n + 4 := by
    rw [show (withInput (avccFrame [List.replicate n 0x41]) start).inLen =
      BitVec.ofNat 32 (avccFrame [List.replicate n 0x41]).length from rfl, hl, BitVec.toNat_ofNat, Nat.mod_eq_of_lt h]
  refine ⟨hn, ⟨fun h => ?_, fun h => ?_, .inl rfl⟩, rfl, fun x hx => ?_, ?_⟩
  · rcases h with h | h <;> cases h
  · cases h.2
  · rw [List.mem_singleton] at hx
    subst hx
    rw [List.length_replicate]
    omega
  · have hm := memRead_memWrite start inBase (avccFrame [List.replicate n 0x41])
    rw [hn, ← hl]
    exact hm

/-- The video access unit of 70000 bytes of S5: one NAL of 69996 bytes. -/
theorem witness_overlong_video :
    70000 ≤ (withInput (avccFrame [List.replicate 69996 0x41]) start).inLen.toNat ∧
    (withInput (avccFrame [List.replicate 69996 0x41]) start).inLen.toNat ≤ start.params.inSize := by
  rw [(oneNal_loaded 69996 (by omega)).1]
  decide

/-- One input for each branch of PES_DEC, at the lengths where the branches meet. -/
theorem witness_pesDec :
    (after .pesDec { start with inLen := 131073 }).err = 6 ∧ (after .pesDec (withInput [0x00, 0x00] start)).err = 4 ∧
    (after .pesDec (withInput [0x00, 0x00, 0x02] start)).err = 4 ∧
    (after .pesDec (withInput [0x00, 0x00, 0x01] start)).err = 1 ∧
    (after .pesDec (withInput (keyPacket.take 5) start)).err = 1 ∧
    (after .pesDec (withInput (keyPacket.take 6) start)).diag.count = 1 ∧
    (after .pesDec (withInput (keyPacket.take 18) start)).diag.count = 1 ∧
    (after .pesDec (withInput (keyPacket.take 19) start)).diag.count = 0 := by decide +kernel

theorem witness_pesPacketRoundTrip :
    let h : PesHdr := { f0 := 0x80, f1 := 0x80, hl := 5, opt := [0x21, 0x00, 0x05, 0xBF, 0x21] }
    start.params.wf = true ∧ h.opt.length = h.hl.toNat ∧
      pesPacket 0xE0 h [0x41] =
        .ok [0x00, 0x00, 0x01, 0xE0, 0x00, 0x09, 0x80, 0x80, 0x05, 0x21, 0x00, 0x05, 0xBF, 0x21, 0x41] := by
  refine ⟨by decide, rfl, rfl⟩

/-! ### Witnesses: TS packets and segmentation -/

/-- TS_HDR_DEC at the lengths and the sync byte where its branches meet. -/
theorem witness_tsHdrDec : (after .tsHdrDec { start with inLen := 131073 }).err = 6 ∧
    (after .tsHdrDec (withInput [0x47, 0x41, 0x00] start)).err = 1 ∧
    (after .tsHdrDec (withInput [0x48, 0x41, 0x00, 0x10] start)).err = 1 ∧
    (after .tsHdrDec (withInput [0x47, 0x1F, 0xFF, 0x37] start)).tsh.word = 0x471FFF37 := by decide +kernel

/-- `Fill` where its cases meet: a full area, 183 bytes, 182 bytes, no byte, and padding. -/
theorem witness_fill : (fill 184 true false 0).w = 184 ∧ (fill 183 true false 0).w = 182 ∧ (fill 182 true false 0).stuff = 0 ∧
    (fill 0 true false 0).pl = false ∧ (fill 0 false false 0).pad = 184 ∧ (fill 176 true true 0x10).stuff = 0 := by decide

/-- TS_PKT_ENC's two operand errors, and a packet. -/
theorem witness_tsPktEnc : (after (.tsPktEnc true) { start with inLen := 131073 }).err = 6 ∧
    (after (.tsPktEnc true) { start with tsh := TsHeader.ofWord 0x47410020, afFlags := 0x01 }).err = 6 ∧
    (after (.tsPktEnc true) { start with tsh := TsHeader.ofWord 0x47410000, afFlags := 0x01 }).err = 0 := by decide +kernel

/-- TS_PKT_DEC where its branches meet: 187 bytes, an adaptation field of 183, 184, 6 and 7 bytes. -/
theorem witness_tsPktDec :
    (after .tsPktDec (withInput (pcrPacket.take 187) start)).err = 1 ∧
    (after .tsPktDec (withInput ([0x47, 0x01, 0x00, 0x30, 0xB7, 0x00] ++ List.replicate 182 0xFF) start)).err = 0 ∧
    (after .tsPktDec (withInput ([0x47, 0x01, 0x00, 0x30, 0xB8, 0x00] ++ List.replicate 182 0xFF) start)).err = 1 ∧
    (after .tsPktDec (withInput ([0x47, 0x01, 0x00, 0x30, 0x06, 0x10] ++ List.replicate 182 0xFF) start)).pcrV = false ∧
    (after .tsPktDec (withInput ([0x47, 0x01, 0x00, 0x30, 0x07, 0x10] ++ List.replicate 182 0xFF) start)).pcrV = true := by
  decide +kernel

theorem witness_tsPacketRoundTrip : start.params.wf = true ∧
    ∃ t, exec (.tsPktEnc true) pcrPacketInput = .next t ∧ t.err = 0 := ⟨by decide, _, rfl, by decide +kernel⟩

/-- TS_SEGMENT on each row of R323 and each remainder of R327 to R329, at the lengths where they meet. -/
theorem witness_tsSegment : ∀ n ∈ [0, 1, 175, 176, 182, 183, 184, 185, 366, 367, 368],
    (∃ t, exec .tsSegment (segInput n false 0) = .next t ∧ t.err = 0) ∧
      ∃ t, exec .tsSegment (segInput n true 0) = .next t ∧ t.err = 0 := by
  have h : ∀ n ∈ [0, 1, 175, 176, 182, 183, 184, 185, 366, 367, 368],
      (tsSegment (segInput n false 0)).err = 0 ∧ (tsSegment (segInput n true 0)).err = 0 := by decide +kernel
  exact fun n hn => ⟨⟨_, rfl, (h n hn).1⟩, _, rfl, (h n hn).2⟩

/-- The remainders those lengths leave after the first packet. -/
theorem witness_tsSegment_remainders :
    (368 - 184) % 184 = 0 ∧ (367 - 184) % 184 = 183 ∧ (366 - 184) % 184 = 182 ∧ (183 - 182) % 184 = 1 ∧
      (359 - 176) % 184 = 183 := by decide

/-- The two errors of TS_SEGMENT (R431, R336), the second with the sizes of the last vector of section 3.6. -/
theorem witness_tsSegment_errors : (after .tsSegment { start with inLen := 131073 }).err = 6 ∧
    (after .tsSegment { segInput 367 false 0 with params := { params with outSize := 376 } }).err = 7 ∧
    (after .tsSegment { segInput 185 false 0 with params := { params with outSize := 376 } }).err = 0 := by decide +kernel

theorem witness_segmentWf : (segInput 185 false 14).params.wf = true ∧
    (∃ t, exec .tsSegment (segInput 185 false 14) = .next t ∧ t.err = 0) ∧ (1 : Nat) < segCount 185 false ∧
    (131072 : Nat) ≤ 131072 := ⟨by decide, ⟨_, rfl, by decide +kernel⟩, by decide, by decide⟩

/-! ### The host port on program P5's tail -/

theorem test_reserved_offset_sets_berr :
    let s : State := { start with done := true, err := 1 }
    answer (.read .w32 0x028) s = some { error := true, data := some 0 } ∧
      answer (.read .w32 0x00C) (afterHost (.read .w32 0x028) s) = some { error := false, data := some 0x00000016 } ∧
      readReg .status (afterHost (.write .w32 0x00C 6) (afterHost (.read .w32 0x028) s)) = 0x00000010 := by decide +kernel

theorem test_wide_buffer_write :
    memRead 0x20000 4 (afterHost (.write .w32 0x20000 0x04030201) start) = [1, 2, 3, 4] ∧
      answer (.read .w16 0x20002) (afterHost (.write .w32 0x20000 0x04030201) start) =
        some { error := false, data := some 0x0403 } := by decide +kernel

/-- The step of a placed word is the command's, and `step` evaluates. -/
theorem test_placed_word_runs : (match step (start.withFetchWord 32 0x32) with
    | .next t => memRead outBase 6 t
    | _ => []) = [0x00, 0x00, 0x00, 0x00, 0x7E, 0x00] := by decide +kernel

end Sys2Proof.Tests
end

section
/-! SUPPORT. The diagnostic log (R42): the bits of DIAG, what logging does to it, a host write of a register, and the
end of every command as far as the log goes. The last theorem settles O28. -/

namespace Sys2Proof.Machine

/-! ### The DIAG word and the log -/

/-- The fields of DIAG by position (R42). -/
theorem readReg_diag_fields (s : State) :
    (readReg .diag s).extractLsb' 0 4 = s.diag.last ∧ (readReg .diag s).extractLsb' 4 12 = 0 ∧
      (readReg .diag s).extractLsb' 16 16 = s.diag.count := by
  have hword : readReg .diag s = s.diag.count ++ (0#12 ++ s.diag.last) := BitVec.append_assoc
  refine ⟨?_, ?_, ?_⟩
  · exact BitVec.extractLsb'_append_eq_right
  · rw [hword, BitVec.extractLsb'_append_eq_of_add_le (by omega)]
    exact BitVec.extractLsb'_append_eq_left
  · rw [hword]
    exact BitVec.extractLsb'_append_eq_left

/-- An empty log reads as 0 (R42, R75). -/
theorem readReg_diag_of_cleared {s : State} (h : s.diag = { last := 0, count := 0 }) : readReg .diag s = 0 := by
  show s.diag.count ++ 0#12 ++ s.diag.last = 0
  rw [h]
  rfl

/-- LAST after a logged MalformedInput (R42). -/
@[simp] theorem log_malformedInput_last (d : Diag) : (d.log .malformedInput).last = 1 := rfl

/-- COUNT saturates at 0xFFFF (R42). -/
theorem log_count_toNat (d : Diag) (st : Status) : (d.log st).count.toNat = min (d.count.toNat + 1) 0xFFFF := by
  unfold Diag.log
  split_ifs with hc
  · simp [hc]
  · have hne : d.count.toNat ≠ 0xFFFF := fun h => hc (BitVec.eq_of_toNat_eq h)
    have hlt := d.count.isLt
    rw [BitVec.toNat_add, show BitVec.toNat (1 : BitVec 16) = 1 from rfl]
    omega

/-- MalformedInput is the only status with code 1 (R430). -/
theorem code_eq_one_iff (st : Status) : st.code = 1 ↔ st = .malformedInput := by cases st <;> decide

/-- OK is the only status with code 0 (R430). -/
theorem code_eq_zero_iff (st : Status) : st.code = 0 ↔ st = .ok := by cases st <;> decide

@[simp] theorem writeHdr_diag (h : PesHdr) (s : State) : (writeHdr h s).diag = s.diag := rfl

/-! ### A host write of a register while idle -/

theorem ofOffset_offset (r : Reg) : Reg.ofOffset r.offset = some r := by cases r <;> rfl

theorem offset_lt_windowSize (r : Reg) : r.offset < windowSize := by cases r <;> decide

theorem offset_mod_four (r : Reg) : r.offset % 4 = 0 := by cases r <;> rfl

/-- A 32-bit access at a register's offset is valid (R102). -/
theorem accessValid_offset (p : Params) (r : Reg) : accessValid p .w32 r.offset = true := by
  simp [accessValid, ofOffset_offset, Width.bytes, offset_mod_four]

/-- With no command pending, a 32-bit write of a register is accepted (R102, R106). -/
theorem hostStep_writeReg_idle (r : Reg) (v : Word) {s : State} (h : s.busy = false) :
    hostStep (.write .w32 r.offset v) s = .next (respond (writeReg r v s, { error := false, data := none })) := by
  have hfree : writeBlocked s r.offset = false := by simp [writeBlocked, h]
  simp [hostStep, busWrite, Nat.not_le.2 (offset_lt_windowSize r), accessValid_offset, hfree, ofOffset_offset]

/-! ### The end of a command -/

/-- `t` is the completion, with some status, of a state whose log is still that of `s`. -/
def CompletesWithLogOf (s t : State) : Prop := ∃ st u, t = complete st u ∧ u.diag = s.diag

theorem CompletesWithLogOf.complete {s u : State} (st : Status) (h : u.diag = s.diag) :
    CompletesWithLogOf s (complete st u) := ⟨st, u, rfl, h⟩

theorem CompletesWithLogOf.raise {s u : State} (st : Status) (h : u.diag = s.diag) :
    CompletesWithLogOf s (raise st u) := .complete st h

/-- Such a completion logs MalformedInput and nothing else (R42). -/
theorem CompletesWithLogOf.diag_eq {s t : State} (h : CompletesWithLogOf s t) :
    t.diag = if t.err = 1 then s.diag.log .malformedInput else s.diag := by
  obtain ⟨st, u, rfl, hu⟩ := h
  rw [complete_diag, complete_err, hu]
  by_cases hst : st = .malformedInput
  · subst hst
    rfl
  · rw [if_neg hst, if_neg (mt (code_eq_one_iff st).1 hst)]

theorem peshTsenc_completes (s : State) : CompletesWithLogOf s (peshTsenc s) := by
  unfold peshTsenc
  split
  · exact .raise _ rfl
  · exact .complete _ rfl

theorem ts5Enc_completes (pfx : Nat) (s : State) : CompletesWithLogOf s (ts5Enc pfx s) := by
  unfold ts5Enc
  split
  · exact .raise _ rfl
  · exact .complete _ (emit_diag _ _)

theorem peshDec_completes (s : State) : CompletesWithLogOf s (peshDec s) := by
  unfold peshDec
  split
  · exact .raise _ rfl
  · split
    · exact .complete _ rfl
    · exact .raise _ rfl

theorem pesBuildAudio_completes (s : State) : CompletesWithLogOf s (pesBuildAudio s) := by
  unfold pesBuildAudio
  split_ifs
  · exact .raise _ rfl
  · exact .raise _ rfl
  · split
    · exact .raise _ rfl
    · split
      · exact .raise _ rfl
      · exact .complete _ (emit_diag _ _)

theorem pesBuildVideo_completes (s : State) : CompletesWithLogOf s (pesBuildVideo s) := by
  unfold pesBuildVideo
  split_ifs
  · exact .raise _ rfl
  · exact .raise _ rfl
  · split
    · exact .raise _ rfl
    · split
      · exact .raise _ rfl
      · split
        · exact .raise _ rfl
        · exact .complete _ (emit_diag _ _)

theorem tsSegment_completes (s : State) : CompletesWithLogOf s (tsSegment s) := by
  unfold tsSegment
  dsimp only
  split_ifs
  · exact .raise _ rfl
  · exact .raise _ rfl
  · exact .complete _ (by simp only [emit_diag])

theorem tsHdrDec_completes (s : State) : CompletesWithLogOf s (tsHdrDec s) := by
  unfold tsHdrDec
  split
  · exact .raise _ rfl
  · split
    · split
      · exact .complete _ rfl
      · exact .raise _ rfl
    · exact .raise _ rfl

theorem tsPktEnc_completes (useAf : Bool) (s : State) : CompletesWithLogOf s (tsPktEnc useAf s) := by
  unfold tsPktEnc
  split_ifs
  · exact .raise _ rfl
  · exact .raise _ rfl
  · exact .complete _ (by simp only [emit_diag])

theorem tsPktDec_completes (s : State) : CompletesWithLogOf s (tsPktDec s) := by
  unfold tsPktDec
  split
  · exact .raise _ rfl
  · extract_lets b h alen
    split
    · exact .raise _ rfl
    · split
      · exact .raise _ rfl
      · exact .complete _ (emit_diag _ _)

/-- Every command but PES_DEC touches the log at its completion only. -/
theorem exec_completes (s : State) :
    ∀ i : Instr, i ≠ .pesDec → ∃ t, exec i s = .next t ∧ CompletesWithLogOf s t
  | .peshTsenc, _ => ⟨_, rfl, peshTsenc_completes s⟩
  | .ts5Enc pfx, _ => ⟨_, rfl, ts5Enc_completes pfx s⟩
  | .peshEnc, _ => ⟨_, rfl, .complete .ok rfl⟩
  | .peshDec, _ => ⟨_, rfl, peshDec_completes s⟩
  | .pesBuildAudio, _ => ⟨_, rfl, pesBuildAudio_completes s⟩
  | .pesBuildVideo, _ => ⟨_, rfl, pesBuildVideo_completes s⟩
  | .pesDec, h => absurd rfl h
  | .tsSegment, _ => ⟨_, rfl, tsSegment_completes s⟩
  | .tsHdrEnc, _ => ⟨_, rfl, .complete .ok rfl⟩
  | .tsHdrDec, _ => ⟨_, rfl, tsHdrDec_completes s⟩
  | .pcrEnc, _ => ⟨_, rfl, .complete .ok rfl⟩
  | .tsPktEnc useAf, _ => ⟨_, rfl, tsPktEnc_completes useAf s⟩
  | .tsPktDec, _ => ⟨_, rfl, tsPktDec_completes s⟩

/-! ### PES_DEC and its nested header decode -/

/-- The header decode fails on length alone: the fixed section or the declared header is cut (R240, R242). -/
theorem parseHdr_eq_none_iff (bs : List Byte) :
    parseHdr bs = none ↔ bs.length < 3 ∨ bs.length < 3 + (bs.getD 2 0).toNat := by
  match bs with
  | [] | [_] | [_, _] => simp [parseHdr]
  | f0 :: f1 :: hl :: rest =>
    simp only [parseHdr, ite_eq_left_iff, reduceCtorEq, imp_false, not_not, List.length_cons, List.getD_cons_succ,
      List.getD_cons_zero]
    omega

/-- The input of PES_DEC ends inside the PES header that follows the six fixed bytes (R280, R283). -/
abbrev NestedHeaderCut (s : State) : Prop :=
  s.inLen.toNat < 9 ∨ s.inLen.toNat < 9 + (s.byteAt (inBase + 8)).toNat

theorem parseHdr_input_eq_none_iff {s : State} (h : 6 ≤ s.inLen.toNat) :
    parseHdr (s.input.drop 6) = none ↔ NestedHeaderCut s := by
  have hrest : s.input.drop 6 = memRead (inBase + 6) (s.inLen.toNat - 6) s := memRead_drop _ _ _ _
  rw [parseHdr_eq_none_iff, hrest, memRead_length, NestedHeaderCut]
  by_cases h9 : s.inLen.toNat < 9
  · exact iff_of_true (.inl (by omega)) (.inl h9)
  · rw [memRead_getD _ _ _ _ (by omega), Nat.add_assoc inBase 6 2]
    omega

/-- The three ends of PES_DEC: an error, a decoded header, and a cut header, logged although the command succeeds
(R280, R283). -/
theorem pesDec_cases (s : State) :
    (∃ st, st ≠ .ok ∧ pesDec s = raise st s) ∨
    (¬NestedHeaderCut s ∧ ∃ u, pesDec s = complete .ok u ∧ u.diag = s.diag) ∨
    (NestedHeaderCut s ∧ ∃ u, pesDec s = complete .ok (logEvent .malformedInput u) ∧ u.diag = s.diag) := by
  generalize ht : pesDec s = t
  unfold pesDec at ht
  split at ht
  · exact .inl ⟨.invalidOperand, by decide, ht.symm⟩
  · split at ht
    · exact .inl ⟨.invalidStartCode, by decide, ht.symm⟩
    · split at ht
      · exact .inl ⟨.malformedInput, by decide, ht.symm⟩
      next hlen =>
        have hcut := parseHdr_input_eq_none_iff (s := s) (Nat.not_lt.1 hlen)
        right
        extract_lets bs s' rest at ht
        split at ht
        next h hparse =>
          have hwhole : ¬NestedHeaderCut s := fun hc => by cases hparse.symm.trans (hcut.2 hc)
          exact .inl ⟨hwhole, _, ht.symm, by rw [emit_diag, writeHdr_diag]⟩
        next hparse => exact .inr ⟨hcut.1 hparse, _, ht.symm, by rw [emit_diag, writeHdr_diag]⟩

/-- What PES_DEC leaves in the log (R42, R283). -/
theorem pesDec_diag (s : State) : (pesDec s).diag =
    if (pesDec s).err = 1 ∨ (pesDec s).err = 0 ∧ NestedHeaderCut s then s.diag.log .malformedInput else s.diag := by
  rcases pesDec_cases s with ⟨st, hst, he⟩ | ⟨hwhole, u, he, hu⟩ | ⟨hcut, u, he, hu⟩
  · have hok : (raise st s).err ≠ 0 := mt (code_eq_zero_iff st).1 hst
    have hdiag := (CompletesWithLogOf.raise (s := s) st rfl).diag_eq
    simpa only [he, hok, false_and, or_false] using hdiag
  · have herr : (complete .ok u).err ≠ 1 := mt (code_eq_one_iff .ok).1 (by decide)
    rw [he, if_neg fun h => h.elim herr fun hc => hwhole hc.2]
    exact hu
  · rw [he, if_pos (.inr ⟨rfl, hcut⟩)]
    exact congrArg (Diag.log · .malformedInput) hu

/-! ### The obligation -/

/-- Which completions are logged, over all commands (R42). -/
theorem exec_diag {i : Instr} {s t : State} (h : exec i s = .next t) : t.diag =
    if t.err = 1 ∨ (i = .pesDec ∧ t.err = 0 ∧ NestedHeaderCut s) then s.diag.log .malformedInput else s.diag := by
  by_cases hi : i = .pesDec
  · subst hi
    obtain rfl : pesDec s = t := by injection h
    simpa only [true_and] using pesDec_diag s
  · obtain ⟨t', ht', hcomp⟩ := exec_completes s i hi
    obtain rfl : t' = t := by injection ht'.symm.trans h
    simpa only [hi, false_and, or_false] using hcomp.diag_eq

/-- Settles O28: a command's completion is the one place that logs, but for PES_DEC's nested decode. -/
theorem diagnosticLog : Obligations.DiagnosticLog := by
  refine ⟨readReg_diag_fields, fun i s t h => ?_, fun s v hidle => hostStep_writeReg_idle .diag v hidle,
    fun s => readReg_diag_of_cleared, readReg_diag_of_cleared rfl⟩
  have hdiag := exec_diag h
  split_ifs with hc
  · rw [hdiag, if_pos hc]
    exact ⟨log_malformedInput_last _, log_count_toNat _ _⟩
  · rw [hdiag, if_neg hc]

end Sys2Proof.Machine
end

section
/-! SUPPORT. The host port (R100 to R107): the registers and buffers of the address map, which accesses are valid, what a bus
access answers and changes, and the byte lanes of a bus word. The last theorems settle O11 and O13. -/

namespace Sys2Proof.Machine

/-! ### The address map (R101) -/

/-- Only a register's own offset is that register (R32). -/
theorem offset_of_ofOffset {off : Nat} {r : Reg} (h : Reg.ofOffset off = some r) : r.offset = off := by
  unfold Reg.ofOffset at h
  split at h
  all_goals cases h
  all_goals rfl

/-- The reserved register offsets, and all offsets past the registers, are no register (R32, R43). -/
theorem ofOffset_eq_none_iff {off : Nat} : Reg.ofOffset off = none ↔ ∀ r : Reg, r.offset ≠ off := by
  constructor
  · rintro hnone r rfl
    cases (ofOffset_offset r).symm.trans hnone
  · intro hno
    cases hr : Reg.ofOffset off with
    | none => rfl
    | some r => exact absurd (offset_of_ofOffset hr) (hno r)

theorem offset_lt_hdrOptBase (r : Reg) : r.offset < 0x100 := by cases r <;> decide

/-- No register lies at a buffer's offset (R101). -/
theorem ofOffset_eq_none_of_le {off : Nat} (h : 0x100 ≤ off) : Reg.ofOffset off = none :=
  ofOffset_eq_none_iff.2 fun r hr => by
    have hlt := offset_lt_hdrOptBase r
    omega

/-- The bytes of the four buffers, with the spec's sizes (R101). -/
theorem bufferByte_iff {p : Params} (hp : p.defaultSizes) (a : Nat) : bufferByte p a = true ↔
    (0x100 ≤ a ∧ a < 0x200) ∨ (0x1000 ≤ a ∧ a < 0x2000) ∨ (0x20000 ≤ a ∧ a < 0x80000) := by
  obtain ⟨hin, hout, hcfg⟩ := hp
  simp only [bufferByte, inHdrOptRegion, Bool.or_eq_true, decide_eq_true_eq]
  simp only [hin, hout, hcfg, hdrOptBase, hdrOptSize, cfgBase, inBase, outBase]
  omega

/-! ### Valid accesses (R102 to R104) -/

theorem width_bytes_pos (w : Width) : 0 < w.bytes := by cases w <;> decide

theorem width_bytes_le_four (w : Width) : w.bytes ≤ 4 := by cases w <;> decide

/-- A register takes 32-bit accesses only (R102). -/
theorem accessValid_register {p : Params} {w : Width} {off : Nat} {r : Reg} (h : Reg.ofOffset off = some r) :
    accessValid p w off = true ↔ w = .w32 := by
  obtain rfl := offset_of_ofOffset h
  constructor
  · intro hv
    simp only [accessValid, h, Bool.and_eq_true, beq_iff_eq] at hv
    exact hv.2
  · rintro rfl
    exact accessValid_offset p r

/-- Any other access is valid when it is aligned and covers buffer bytes only (R103). -/
theorem accessValid_noRegister {p : Params} {w : Width} {off : Nat} (h : Reg.ofOffset off = none) :
    accessValid p w off = true ↔ off % w.bytes = 0 ∧ ∀ i, i < w.bytes → bufferByte p (off + i) = true := by
  simp only [accessValid, h, Bool.and_eq_true, beq_iff_eq, List.all_eq_true, List.mem_range]

/-- With the spec's sizes an aligned access that begins in a buffer stays in it: every region begins and ends at a multiple of
4 (R101, R103). -/
theorem aligned_covers_iff {p : Params} (hp : p.defaultSizes) {w : Width} {off : Nat} (h : off % w.bytes = 0) :
    (∀ i, i < w.bytes → bufferByte p (off + i) = true) ↔ bufferByte p off = true := by
  constructor
  · exact fun hall => hall 0 (width_bytes_pos w)
  · intro hfirst i hi
    rw [bufferByte_iff hp] at hfirst ⊢
    cases w <;> simp only [Width.bytes] at h hi <;> omega

/-- The valid accesses are those R104 does not reject. -/
theorem accessValid_iff_not_rejected {p : Params} (hp : p.defaultSizes) {w : Width} {off : Nat} (hoff : off < windowSize) :
    accessValid p w off = true ↔ ¬AccessRejected w off := by
  cases hr : Reg.ofOffset off with
  | some r =>
    rw [accessValid_register hr]
    obtain rfl := offset_of_ofOffset hr
    have hlt := offset_lt_hdrOptBase r
    constructor
    · rintro rfl (hal | ⟨-, hno | hw⟩ | hgap | hgap)
      · exact hal (offset_mod_four r)
      · exact hno r rfl
      · exact hw rfl
      · omega
      · omega
    · intro hacc
      by_contra hw
      exact hacc (.inr (.inl ⟨hlt, .inr hw⟩))
  | none =>
    have hno := ofOffset_eq_none_iff.1 hr
    simp only [windowSize] at hoff
    rw [accessValid_noRegister hr]
    constructor
    · rintro ⟨hal, hbytes⟩
      have hbyte := (bufferByte_iff hp off).1 ((aligned_covers_iff hp hal).1 hbytes)
      rintro (hmis | ⟨hlt, -⟩ | hgap | hgap)
      · exact hmis hal
      all_goals omega
    · intro hacc
      simp only [AccessRejected, not_or, not_and, not_not] at hacc
      obtain ⟨hal, hreg, hgap, hgap'⟩ := hacc
      have hlow : ¬off < 0x100 := fun hlt => (hreg hlt).1 hno
      exact ⟨hal, (aligned_covers_iff hp hal).2 ((bufferByte_iff hp off).2 (by omega))⟩

/-- The writes R106 does not refuse: all while idle, those of CTRL and STATUS while BUSY. -/
theorem writeBlocked_eq_false_iff {s : State} {off : Nat} :
    writeBlocked s off = false ↔ s.busy = false ∨ off = 0x008 ∨ off = 0x00C := by
  simp only [writeBlocked, Bool.and_eq_false_iff, decide_eq_false_iff_not, not_not, or_assoc]
  rfl

/-! ### Bus accesses -/

/-- An access inside the window never faults (R100). -/
theorem hostStep_read {w : Width} {off : Nat} (s : State) (h : off < windowSize) :
    hostStep (.read w off) s = .next (respond (busRead w off s)) := if_neg (Nat.not_le.2 h)

theorem hostStep_write {w : Width} {off : Nat} (v : Word) (s : State) (h : off < windowSize) :
    hostStep (.write w off v) s = .next (respond (busWrite w off v s)) := if_neg (Nat.not_le.2 h)

/-- A rejected read (R104). -/
theorem busRead_rejected {w : Width} {off : Nat} {s : State} (h : accessValid s.params w off = false) :
    busRead w off s = (rejectAccess s, { error := true, data := some 0 }) := if_pos h

/-- A rejected write (R104, R106). -/
theorem busWrite_rejected {w : Width} {off : Nat} {s : State} (v : Word)
    (h : accessValid s.params w off = false ∨ writeBlocked s off = true) :
    busWrite w off v s = (rejectAccess s, { error := true, data := none }) := if_pos h

/-- A valid read answers without an error and leaves BERR, also where R73 leaves its value open. -/
theorem busRead_valid {w : Width} {off : Nat} {s : State} (h : accessValid s.params w off = true) :
    ∃ d, (busRead w off s).2 = { error := false, data := some d } ∧ (busRead w off s).1.berr = s.berr := by
  have hv : ¬accessValid s.params w off = false := by simp [h]
  simp only [busRead, if_neg hv]
  split
  · split
    · exact ⟨_, rfl, rfl⟩
    · exact ⟨_, rfl, rfl⟩
  · split
    · exact ⟨_, rfl, rfl⟩
    · exact ⟨_, rfl, rfl⟩

/-- No read touches the responses so far. -/
theorem busRead_resps (w : Width) (off : Nat) (s : State) : (busRead w off s).1.resps = s.resps := by
  rw [busRead_frame]

/-- No register write touches the responses so far, the soft reset included (log 9). -/
@[simp] theorem writeReg_resps (r : Reg) (v : Word) (s : State) : (writeReg r v s).resps = s.resps := by
  cases r
  case ctrl =>
    simp only [writeReg, writeCtrl]
    split <;> rfl
  all_goals rfl

/-- An accepted write answers without an error. -/
theorem busWrite_accepted {w : Width} {off : Nat} {s : State} (v : Word) (h : accessValid s.params w off = true)
    (hb : writeBlocked s off = false) :
    (busWrite w off v s).2 = { error := false, data := none } ∧ (busWrite w off v s).1.resps = s.resps := by
  have hacc : ¬(accessValid s.params w off = false ∨ writeBlocked s off = true) := by simp [h, hb]
  simp only [busWrite, if_neg hacc]
  split
  · exact ⟨rfl, writeReg_resps _ v s⟩
  · exact ⟨rfl, rfl⟩

/-- A valid buffer write of the idle block stores the bytes of the written word (R103). -/
theorem busWrite_buffer_idle {w : Width} {off : Nat} {s : State} (v : Word) (hidle : s.busy = false)
    (hr : Reg.ofOffset off = none) (h : accessValid s.params w off = true) :
    busWrite w off v s = (memWrite off (leBytes w.bytes v) s, { error := false, data := none }) := by
  have hb : writeBlocked s off = false := writeBlocked_eq_false_iff.2 (.inl hidle)
  simp [busWrite, h, hb, hr]

/-- A valid buffer read of the idle block answers the bytes it covers and changes nothing (R103, R107). -/
theorem busRead_buffer_idle {w : Width} {off : Nat} {s : State} (hidle : s.busy = false)
    (hr : Reg.ofOffset off = none) (h : accessValid s.params w off = true) : busRead w off s =
      (s, { error := false, data := some (BitVec.ofNat 32 (leValue (memRead off w.bytes s))) }) := by
  simp [busRead, h, hr, hidle]

/-! ### Byte lanes (R103) -/

@[simp] theorem leBytes_length (n : Nat) (v : Word) : (leBytes n v).length = n := by simp [leBytes]

/-- Byte `i` of a bus word is its data bits `8i+7` to `8i`. -/
theorem leBytes_getD {n i : Nat} (v : Word) (h : i < n) : (leBytes n v).getD i 0 = v.extractLsb' (8 * i) 8 := by
  simp [leBytes, h]

theorem leValue_lt (bs : List Byte) : leValue bs < 2 ^ (8 * bs.length) := by
  induction bs with
  | nil => decide
  | cons b bs ih =>
    have hb := b.isLt
    rw [List.length_cons, Nat.mul_succ, Nat.pow_add, leValue]
    omega

/-- Digit `i` to base 256 of a byte string's number is byte `i`. -/
theorem leValue_digit (bs : List Byte) (i : Nat) : leValue bs / 2 ^ (8 * i) % 2 ^ 8 = (bs.getD i 0).toNat := by
  induction bs generalizing i with
  | nil => simp [leValue]
  | cons b bs ih =>
    have hb := b.isLt
    cases i with
    | zero =>
      simp only [leValue, List.getD_cons_zero, Nat.mul_zero, Nat.pow_zero, Nat.div_one]
      omega
    | succ i =>
      have hrest : leValue (b :: bs) / 2 ^ 8 = leValue bs := by
        rw [leValue]
        omega
      rw [List.getD_cons_succ, ← ih i, Nat.mul_succ, Nat.add_comm, Nat.pow_add, ← Nat.div_div_eq_div_mul, hrest]

/-- A byte string that fits the bus is the number of the word that carries it. -/
theorem toNat_ofNat_leValue {bs : List Byte} (h : bs.length ≤ 4) : (BitVec.ofNat 32 (leValue bs)).toNat = leValue bs := by
  have hlt : leValue bs < 2 ^ 32 := lt_of_lt_of_le (leValue_lt bs) (Nat.pow_le_pow_right (by decide) (by omega))
  exact Nat.mod_eq_of_lt hlt

/-- Byte `i` of a byte string on the bus is on data bits `8i+7` to `8i`. -/
theorem extractLsb'_ofNat_leValue {bs : List Byte} (h : bs.length ≤ 4) (i : Nat) :
    (BitVec.ofNat 32 (leValue bs)).extractLsb' (8 * i) 8 = bs.getD i 0 := by
  apply BitVec.eq_of_toNat_eq
  rw [BitVec.extractLsb'_toNat, toNat_ofNat_leValue h, Nat.shiftRight_eq_div_pow, leValue_digit]

/-! ### The obligations -/

/-- Settles O11: with the spec's sizes the accesses the port finds invalid are those R104 rejects. -/
theorem rejectedAccessesOnlySetBerr : Obligations.RejectedAccessesOnlySetBerr := by
  intro s w off v hsizes hoff
  have hvalid := accessValid_iff_not_rejected (w := w) hsizes hoff
  rw [hostStep_read s hoff, hostStep_write v s hoff]
  refine ⟨fun hrej => ?_, fun hbusy hctrl hstatus => ?_, fun hacc => ⟨?_, fun hfree => ?_⟩⟩
  · have hinv : accessValid s.params w off = false := Bool.eq_false_iff.2 fun h => hvalid.1 h hrej
    rw [busRead_rejected hinv, busWrite_rejected v (.inl hinv)]
    exact ⟨rfl, rfl⟩
  · have hblocked : writeBlocked s off = true := by
      by_contra h
      have := writeBlocked_eq_false_iff.1 (Bool.eq_false_iff.2 h)
      simp [hbusy, hctrl, hstatus] at this
    rw [busWrite_rejected v (.inr hblocked)]
    rfl
  · obtain ⟨d, hresp, hberr⟩ := busRead_valid (hvalid.2 hacc)
    exact ⟨_, d, rfl, congrArg₂ List.cons hresp (busRead_resps w off s), hberr⟩
  · obtain ⟨hresp, hresps⟩ := busWrite_accepted v (hvalid.2 hacc) (writeBlocked_eq_false_iff.2 hfree)
    exact ⟨_, rfl, congrArg₂ List.cons hresp hresps⟩

/-- Settles O13: a write stores the lanes of the word by `memWrite`; a read answers the word whose lanes are the bytes. -/
theorem bufferAccessesAreLittleEndian : Obligations.BufferAccessesAreLittleEndian := by
  intro s w off v hidle hoff hbuf hvalid
  have hr := ofOffset_eq_none_of_le hbuf
  rw [hostStep_write v s hoff, hostStep_read s hoff, busWrite_buffer_idle v hidle hr hvalid,
    busRead_buffer_idle hidle hr hvalid]
  have hlen : (memRead off w.bytes s).length = w.bytes := memRead_length off w.bytes s
  have hbus : (memRead off w.bytes s).length ≤ 4 := hlen.trans_le (width_bytes_le_four w)
  constructor
  · obtain ⟨hin, hout⟩ := memWrite_storesAt s off (leBytes w.bytes v)
    rw [leBytes_length] at hin hout
    exact ⟨_, rfl, rfl, fun i hi => (hin i hi).trans (leBytes_getD v hi), hout⟩
  · refine ⟨_, rfl, fun i hi => ?_, ?_⟩
    · rw [extractLsb'_ofNat_leValue hbus, memRead_getD off w.bytes i s hi]
    · rw [toNat_ofNat_leValue hbus]
      simpa only [hlen] using leValue_lt (memRead off w.bytes s)

end Sys2Proof.Machine
end

section
/-! SUPPORT. The illegal command words (R143): the decoder's clauses over the fields of a word, and the ENGINE step of a
pending illegal word. The last theorem settles O3. -/

namespace Sys2Proof.Machine

/-! ### The clauses of R143 -/

/-- The OPC column of the opcode table (R144). -/
abbrev tableOpcodes : List Byte :=
  [0x01, 0x02, 0x03, 0x04, 0x10, 0x11, 0x12, 0x20, 0x30, 0x31, 0x32, 0x33, 0x34]

/-- The operand fields play no part in whether an opcode is one of the table. -/
theorem commandOf_eq_none_iff (opc : Byte) (pfx : Nat) (useAf : Bool) :
    commandOf opc.toNat pfx useAf = none ↔ opc ∉ tableOpcodes := by
  have hmem : opc ∈ tableOpcodes ↔ opc.toNat ∈ tableOpcodes.map BitVec.toNat :=
    (List.mem_map_of_injective fun _ _ => BitVec.eq_of_toNat_eq).symm
  rw [hmem]
  unfold commandOf
  split
  case h_14 => exact iff_of_true rfl (by simp_all)
  all_goals next hopc => simp [hopc]

/-- A field of a word differs from a constant as a number exactly when it differs as bits. -/
theorem extractLsb'_toNat_ne_iff (w : Word) (lo len n : Nat) :
    (w.extractLsb' lo len).toNat ≠ n % 2 ^ len ↔ w.extractLsb' lo len ≠ BitVec.ofNat len n := by
  rw [← BitVec.toNat_ofNat, ne_eq, BitVec.toNat_inj]

/-- The decoder rejects an opcode outside the table, a reserved bit, and USE_AF or PREFIX with a command that has none (R143). -/
theorem decode_error_iff (w : Word) : (∃ e, decode w = .error e) ↔
    commandOf (opcField w) (pfxField w) (useAfField w) = none ∨ (rsvAField w ≠ 0 ∨ rsvBField w ≠ 0) ∨
      (useAfField w = true ∧ opcField w ≠ 0x33) ∨ (pfxField w ≠ 0 ∧ opcField w ≠ 0x02) := by
  unfold decode
  split
  next hopc => exact iff_of_true ⟨_, rfl⟩ (.inl hopc)
  next i hopc =>
    split_ifs with hrsv haf hpfx
    · exact iff_of_true ⟨_, rfl⟩ (.inr (.inl hrsv))
    · exact iff_of_true ⟨_, rfl⟩ (.inr (.inr (.inl haf)))
    · exact iff_of_true ⟨_, rfl⟩ (.inr (.inr (.inr hpfx)))
    · simp only [hopc, hrsv, haf, hpfx, reduceCtorEq, exists_false, or_self]

/-! ### The step -/

/-- A pending command whose turn it is takes the ENGINE step (R440, log 4). -/
theorem step_eq_engineStep {s : State} (hbusy : s.busy = true) (hturn : s.delay = 0 ∨ s.host = []) :
    step s = engineStep s := by
  have hengine : engineTurn s = true := by simpa [engineTurn, hbusy] using hturn
  exact if_pos hengine

/-- The ENGINE step of an illegal word (R143). -/
theorem engineStep_of_decode_error {s : State} {e : DecodeError} (h : decode s.cmd = .error e) :
    engineStep s = .next (illegalCommand s) := by
  rw [engineStep, h]

/-- IllegalCommand is not logged in DIAG (R42). -/
theorem illegalCommand_eq (s : State) :
    illegalCommand s = { s with outLen := 0, err := 5, busy := false, done := true } := raise_eq .illegalCommand s

/-! ### The obligation -/

/-- Settles O3: the decoder's clauses are those of R143 field by field, and such a word's step is IllegalCommand's. -/
theorem illegalWordsCompleteAsIllegalCommand : Obligations.IllegalWordsCompleteAsIllegalCommand := by
  intro w
  constructor
  · rw [decode_error_iff, or_assoc]
    exact or_congr (commandOf_eq_none_iff _ _ _) <|
      or_congr (extractLsb'_toNat_ne_iff w 9 3 0) <| or_congr (extractLsb'_toNat_ne_iff w 16 16 0) <|
      or_congr (and_congr_right' (extractLsb'_toNat_ne_iff w 0 8 0x33))
        (and_congr (extractLsb'_toNat_ne_iff w 12 4 0) (extractLsb'_toNat_ne_iff w 0 8 0x02))
  · rintro s rfl ⟨e, herror⟩ hbusy hturn
    rw [step_eq_engineStep hbusy hturn, engineStep_of_decode_error herror, illegalCommand_eq]

end Sys2Proof.Machine
end

section
/-! SUPPORT. The PES header codec (R202 to R243): rounding of ticks, the order of timestamps, the timestamp bytes, and the
commands TS5_ENC, PESH_ENC and PESH_DEC. The theorems settle O30, O31, O32, O35, O36, O37 and O38. -/

namespace Sys2Proof.Machine

/-- A number that fits its field is what the field holds. -/
theorem ofNat_toNat_of_lt {w n : Nat} (h : n < 2 ^ w) : (BitVec.ofNat w n).toNat = n := by
  rw [BitVec.toNat_ofNat, Nat.mod_eq_of_lt h]

/-! ### Rounding (R204) -/

theorem roundHalfAway_of_nonneg {n : Int} (d : Nat) (hn : 0 ≤ n) : roundHalfAway n d = (2 * n + d) / (2 * d) := if_pos hn

theorem roundHalfAway_of_neg {n : Int} (d : Nat) (hn : n < 0) : roundHalfAway n d = -((-2 * n + d) / (2 * d)) :=
  if_neg (Int.not_le.2 hn)

/-- Rounding is symmetric about zero. -/
theorem roundHalfAway_eq_neg_of_neg {n : Int} (d : Nat) (hn : n < 0) : roundHalfAway n d = -roundHalfAway (-n) d := by
  rw [roundHalfAway_of_neg d hn, roundHalfAway_of_nonneg d (by omega), Int.mul_neg, Int.neg_mul]

/-- From zero up, the result lies less than half below N/D and at most half above. -/
theorem roundHalfAway_bounds_of_nonneg {n : Int} {d : Nat} (hd : 0 < d) (hn : 0 ≤ n) :
    -d ≤ 2 * (n - roundHalfAway n d * d) ∧ 2 * (n - roundHalfAway n d * d) < d := by
  have hpos : (0 : Int) < 2 * d := by omega
  have hle := Int.ediv_mul_le (2 * n + d) hpos.ne'
  have hlt := Int.lt_ediv_add_one_mul_self (2 * n + d) hpos
  rw [← roundHalfAway_of_nonneg d hn] at hle hlt
  constructor <;> linarith

/-- Below zero, the result lies at most half below N/D and less than half above. -/
theorem roundHalfAway_bounds_of_neg {n : Int} {d : Nat} (hd : 0 < d) (hn : n < 0) :
    -d < 2 * (n - roundHalfAway n d * d) ∧ 2 * (n - roundHalfAway n d * d) ≤ d := by
  have hneg := roundHalfAway_bounds_of_nonneg hd (n := -n) (by omega)
  rw [roundHalfAway_eq_neg_of_neg d hn, Int.neg_mul]
  omega

/-- Where N/D lies about the result, on either side of zero. -/
theorem roundHalfAway_bounds (n : Int) {d : Nat} (hd : 0 < d) :
    (0 ≤ n ∧ -d ≤ 2 * (n - roundHalfAway n d * d) ∧ 2 * (n - roundHalfAway n d * d) < d) ∨
      (n < 0 ∧ -d < 2 * (n - roundHalfAway n d * d) ∧ 2 * (n - roundHalfAway n d * d) ≤ d) :=
  (le_or_gt 0 n).imp (fun hn => ⟨hn, roundHalfAway_bounds_of_nonneg hd hn⟩)
    fun hn => ⟨hn, roundHalfAway_bounds_of_neg hd hn⟩

/-- The result is within half of N/D, and at a distance of a half it is the one farther from zero. -/
theorem roundHalfAway_nearest (n : Int) {d : Nat} (hd : 0 < d) :
    2 * |n - roundHalfAway n d * d| ≤ d ∧
      (2 * |n - roundHalfAway n d * d| = d → |n| < |roundHalfAway n d * d|) := by
  have hbounds := roundHalfAway_bounds n hd
  have hdist := abs_cases (n - roundHalfAway n d * d)
  have hnum := abs_cases n
  have hres := abs_cases (roundHalfAway n d * d)
  omega

/-- Settles O30: the nearest integer is characterised from zero up, and by symmetry below. -/
theorem roundHalfAwayIsNearest : Obligations.RoundHalfAwayIsNearest := by
  refine ⟨fun n d hd => ?_, by decide, by decide, by decide, by decide, by decide⟩
  obtain ⟨hhalf, htie⟩ := roundHalfAway_nearest n hd
  exact ⟨hhalf, htie, roundHalfAway_of_nonneg d, roundHalfAway_of_neg d⟩

/-! ### The order of timestamps (R212) -/

theorem roundHalfAway_mono {n m : Int} {d : Nat} (hd : 0 < d) (h : n < m) : roundHalfAway n d ≤ roundHalfAway m d := by
  by_contra! hlt
  have hprod : (roundHalfAway m d + 1) * d ≤ roundHalfAway n d * d := Int.mul_le_mul_of_nonneg_right hlt (by omega)
  have hn := roundHalfAway_bounds n hd
  have hm := roundHalfAway_bounds m hd
  rw [Int.add_mul, Int.one_mul] at hprod
  omega

/-- Numerators a whole denominator apart round apart: two ties on one side of zero go the same way. -/
theorem roundHalfAway_strictMono {n m : Int} {d : Nat} (hd : 0 < d) (h : n + d ≤ m) :
    roundHalfAway n d < roundHalfAway m d := by
  by_contra! hle
  have hprod : roundHalfAway m d * d ≤ roundHalfAway n d * d := Int.mul_le_mul_of_nonneg_right hle (by omega)
  have hn := roundHalfAway_bounds n hd
  have hm := roundHalfAway_bounds m hd
  omega

/-- A value in range is its own timestamp (R205). -/
theorem tickValue_of_inTsRange {s : State} {x : Int} (h : InTsRange (roundedTicks s x)) :
    ∃ v, tickValue s x = .ok v ∧ (v.toNat : Int) = roundedTicks s x := by
  refine ⟨_, rangeCheck_ok _ _ (.inr h), ?_⟩
  obtain ⟨hnonneg, hlt⟩ := h
  rw [BitVec.toNat_ofInt]
  omega

/-- A state under Wrap in which the value one tick before T0 is the greatest timestamp. -/
abbrev wrapState : State := { State.reset with params := { Config.params with tsRange := .wrap } }

theorem wrapState_tickValue (x : Int) : tickValue wrapState x = .ok (BitVec.ofInt 33 (roundedTicks wrapState x)) :=
  rangeCheck_ok _ _ (.inl rfl)

/-- Settles O31: rounding keeps the order; under Wrap the tick before T0 gives 2^33 − 1 and T0 itself 0. -/
theorem tickValueMonotone : Obligations.TickValueMonotone := by
  constructor
  · intro s x1 x2 hts hx h1 h2
    have hpos : 0 < s.timescale.toNat := Nat.pos_of_ne_zero fun h0 => hts (BitVec.eq_of_toNat_eq h0)
    obtain ⟨v1, hv1, hr1⟩ := tickValue_of_inTsRange h1
    obtain ⟨v2, hv2, hr2⟩ := tickValue_of_inTsRange h2
    refine ⟨v1, v2, hv1, hv2, ?_, fun hapart => ?_⟩
    · have hle : roundedTicks s x1 ≤ roundedTicks s x2 := roundHalfAway_mono hpos (by omega)
      omega
    · have hlt : roundedTicks s x1 < roundedTicks s x2 := roundHalfAway_strictMono hpos (by omega)
      omega
  · exact ⟨wrapState, -1, 0, _, _, rfl, by decide, by decide, wrapState_tickValue _, wrapState_tickValue _, by decide⟩

/-! ### The timestamp bytes (R208, R209) -/

/-- The five timestamp bytes by name, with their values. -/
theorem ts5_bytes (v : BitVec 33) (p : BitVec 4) : ∃ s0 s1 s2 s3 s4 : Byte, ts5 v p = [s0, s1, s2, s3, s4] ∧
    s0.toNat = p.toNat * 16 + v.toNat / 2 ^ 30 * 2 + 1 ∧ s1.toNat = v.toNat / 2 ^ 22 % 256 ∧
    s2.toNat = v.toNat / 2 ^ 15 % 128 * 2 + 1 ∧ s3.toNat = v.toNat / 2 ^ 7 % 256 ∧
    s4.toNat = v.toNat % 128 * 2 + 1 := by
  refine ⟨_, _, _, _, _, rfl, ?_⟩
  simpa only [ts5, List.map_cons, List.map_nil, List.cons.injEq, and_true] using ts5_toNat v p

/-- Settles O32: every chunk of the value, and the PREFIX nibble, is read back from its byte. -/
theorem timestampBytesInvertible : Obligations.TimestampBytesInvertible := by
  intro v p
  obtain ⟨s0, s1, s2, s3, s4, hbytes, h0, h1, h2, h3, h4⟩ := ts5_bytes v p
  have hv := v.isLt
  have hp := p.isLt
  refine ⟨s0, s1, s2, s3, s4, hbytes, ?_, BitVec.eq_of_toNat_eq ?_⟩
  · simp only [extract_toNat]
    omega
  · rw [extract_toNat]
    omega

/-- The five bytes as one 40-bit number (R208). -/
theorem beValue_ts5 (v : BitVec 33) (p : BitVec 4) : beValue (ts5 v p) =
    p.toNat * 2 ^ 36 + v.toNat / 2 ^ 30 * 2 ^ 33 + 2 ^ 32 + v.toNat / 2 ^ 15 % 2 ^ 15 * 2 ^ 17 + 2 ^ 16 +
      v.toNat % 2 ^ 15 * 2 + 1 := by
  obtain ⟨s0, s1, s2, s3, s4, hbytes, h0, h1, h2, h3, h4⟩ := ts5_bytes v p
  simp only [hbytes, beValue, List.foldl_cons, List.foldl_nil, h0, h1, h2, h3, h4]
  omega

/-! ### The encoders TS5_ENC and PESH_ENC (R220, R230) -/

/-- What a command that succeeds with output `bs` changes: OUT_LEN, STATUS and the bytes it emits (R23, R440). -/
theorem complete_emit_spec (bs : List Byte) (s : State) :
    complete .ok (emit bs s) = { s with
      mem := (complete .ok (emit bs s)).mem
      outLen := BitVec.ofNat 32 bs.length, err := 0, busy := false, done := true } ∧
      StoresAt s (complete .ok (emit bs s)) outBase bs :=
  ⟨rfl, emit_storesAt bs s⟩

/-- The output of such a command is in OUT_BUF. -/
theorem memRead_complete_emit (bs : List Byte) (s : State) :
    memRead outBase bs.length (complete .ok (emit bs s)) = bs := memRead_memWrite s outBase bs

/-- The raw operand of TS5_ENC by its two registers (R22, R47). -/
theorem ptsRaw_eq (s : State) : s.ptsRaw = s.ptsHi.toNat * 2 ^ 32 + s.ptsLo.toNat := append_toNat _ _

/-- Settles O35, by the one test of TS5_ENC. -/
theorem ts5EncEmitsTimestamp : Obligations.Ts5EncEmitsTimestamp := by
  intro s pfx hpfx raw
  refine ⟨_, rfl, ?_⟩
  have hraw : s.ptsRaw = raw := ptsRaw_eq s
  rw [ts5Enc, hraw]
  split_ifs with hbig
  · exact raise_eq .invalidOperand s
  · obtain ⟨hregs, -, hframe⟩ := complete_emit_spec (ts5 (BitVec.ofNat 33 raw) (BitVec.ofNat 4 pfx)) s
    refine ⟨hregs, ?_, hframe⟩
    have hout := memRead_complete_emit (ts5 (BitVec.ofNat 33 raw) (BitVec.ofNat 4 pfx)) s
    rw [ts5_length] at hout
    rw [hout, beValue_ts5, ofNat_toNat_of_lt hpfx, ofNat_toNat_of_lt (Nat.not_le.1 hbig)]

@[simp] theorem hdr_opt_length (s : State) : s.hdr.opt.length = s.hdr.hl.toNat := memRead_length _ _ _

theorem hdrBytes_length (h : PesHdr) : (hdrBytes h).length = 3 + h.opt.length := by
  rw [hdrBytes, List.length_append]
  rfl

/-- Settles O36: PESH_ENC has no test. -/
theorem peshEncEmitsHeader : Obligations.PeshEncEmitsHeader := by
  intro s
  have hspec := complete_emit_spec (hdrBytes s.hdr) s
  rw [hdrBytes_length, hdr_opt_length] at hspec
  exact ⟨_, rfl, hspec⟩

/-! ### The decoder PESH_DEC (R240 to R243) -/

/-- The header that a long enough buffer range begins with (R240). -/
theorem parseHdr_memRead {base n : Nat} {s : State} (h : 3 + (s.byteAt (base + 2)).toNat ≤ n) :
    parseHdr (memRead base n s) = some
      { f0 := s.byteAt base, f1 := s.byteAt (base + 1), hl := s.byteAt (base + 2)
        opt := memRead (base + 3) (s.byteAt (base + 2)).toNat s } := by
  obtain ⟨k, rfl⟩ : ∃ k, n = k + 3 := ⟨n - 3, by omega⟩
  have hlong : ¬k < (s.byteAt (base + 2)).toNat := by omega
  simp only [memRead_succ, parseHdr, Nat.add_assoc, Nat.reduceAdd, memRead_length, if_neg hlong,
    memRead_take _ _ _ _ (Nat.not_lt.1 hlong)]

/-- The header decode of the input fails exactly when the fixed section or the declared header is cut (R240). -/
theorem parseHdr_input_eq_none {s : State} (h : s.inLen.toNat < 3 ∨ s.inLen.toNat < 3 + (s.byteAt (inBase + 2)).toNat) :
    parseHdr s.input = none := by
  rw [parseHdr_eq_none_iff, input_length]
  by_cases h3 : s.inLen.toNat < 3
  · exact .inl h3
  · rw [State.input, State.inCount, memRead_getD _ _ _ _ (by omega)]
    exact h

/-- PESH_DEC of an input that begins with a header (R240). -/
theorem peshDec_of_parseHdr {s : State} {h : PesHdr} (hlen : s.inLen.toNat ≤ s.params.inSize)
    (hparse : parseHdr s.input = some h) : peshDec s = complete .ok { writeHdr h s with outLen := 0 } := by
  rw [peshDec, if_neg (mt (inLenTooLarge_iff s).1 (Nat.not_lt.2 hlen)), hparse]

/-- PESH_DEC of an input too short for its header (R241). -/
theorem peshDec_of_parseHdr_none {s : State} (hlen : s.inLen.toNat ≤ s.params.inSize)
    (hparse : parseHdr s.input = none) : peshDec s = raise .malformedInput { s with hdrCtrl := HdrCtrl.default } := by
  rw [peshDec, if_neg (mt (inLenTooLarge_iff s).1 (Nat.not_lt.2 hlen)), hparse]

/-- Settles O37, by the branches of PESH_DEC. -/
theorem peshDecReadsHeader : Obligations.PeshDecReadsHeader := by
  intro s
  refine ⟨_, rfl, ?_⟩
  split_ifs with hlarge hcut
  · rw [peshDec, if_pos ((inLenTooLarge_iff s).2 hlarge)]
    exact raise_eq .invalidOperand s
  · rw [peshDec_of_parseHdr_none (Nat.not_lt.1 hlarge) (parseHdr_input_eq_none hcut)]
    exact raise_eq .malformedInput _
  · have hparse : parseHdr s.input = some _ := parseHdr_memRead (n := s.inLen.toNat) (by omega)
    rw [peshDec_of_parseHdr (Nat.not_lt.1 hlarge) hparse]
    exact ⟨rfl, memWrite_storesAt s hdrOptBase _⟩

/-- PESH_ENC leaves the header's bytes in OUT_BUF, OUT_LEN of them. -/
theorem memRead_peshEnc (s : State) : memRead outBase (peshEnc s).outLen.toNat (peshEnc s) = hdrBytes s.hdr := by
  have hhl := s.hdr.hl.isLt
  have hlen : (peshEnc s).outLen.toNat = (hdrBytes s.hdr).length := by
    refine ofNat_toNat_of_lt ?_
    rw [hdrBytes_length, hdr_opt_length]
    omega
  rw [hlen]
  exact memRead_complete_emit _ _

@[simp] theorem withInput_params (bs : List Byte) (s : State) : (withInput bs s).params = s.params := rfl

theorem withInput_inLen {bs : List Byte} (s : State) (h : bs.length < 2 ^ 32) :
    (withInput bs s).inLen.toNat = bs.length := ofNat_toNat_of_lt h

/-- An input shorter than 2^32 bytes is what the host stored. -/
theorem input_withInput {bs : List Byte} (s : State) (h : bs.length < 2 ^ 32) : (withInput bs s).input = bs := by
  rw [State.input, State.inCount, withInput_inLen s h]
  exact memRead_memWrite s inBase bs

/-- PESH_DEC of the bytes of a header stores that header, whatever HDR held (R243). -/
theorem peshDec_hdrBytes (s : State) {h : PesHdr} (hopt : h.opt.length = h.hl.toNat)
    (hfit : (hdrBytes h).length ≤ s.params.inSize) :
    peshDec (withInput (hdrBytes h) s) =
      complete .ok { writeHdr h (withInput (hdrBytes h) s) with outLen := 0 } := by
  have hhl := h.hl.isLt
  have hlt : (hdrBytes h).length < 2 ^ 32 := by rw [hdrBytes_length]; omega
  refine peshDec_of_parseHdr ?_ ?_
  · rw [withInput_inLen s hlt]
    exact hfit
  · rw [input_withInput s hlt, ← List.append_nil (hdrBytes h)]
    exact parseHdr_hdrBytes h [] hopt

/-- A header of at most 3 + 255 bytes fits a conforming IN_BUF (R10). -/
theorem hdrBytes_fit (s : State) (h : s.params.wf = true) : (hdrBytes s.hdr).length ≤ s.params.inSize := by
  have hhl := s.hdr.hl.isLt
  have hin : 65541 ≤ s.params.inSize := by
    simp only [Params.wf, Bool.and_eq_true, decide_eq_true_eq] at h
    omega
  rw [hdrBytes_length, hdr_opt_length]
  omega

/-- Stored optional fields read back: the bytes that `HDR <- H` leaves in HDR_OPT (R201). -/
theorem memRead_writeHdr {h : PesHdr} (s : State) (hopt : h.opt.length = h.hl.toNat) :
    memRead hdrOptBase h.hl.toNat (writeHdr h s) = h.opt := by
  rw [← hopt]
  exact memRead_memWrite s hdrOptBase h.opt

/-- Settles O38: the output of PESH_ENC is the header's bytes, and PESH_DEC stores the header they parse to. -/
theorem headerRoundTrip : Obligations.HeaderRoundTrip := by
  intro s t h d hwf _ henc
  obtain rfl : peshEnc s = t := by injection henc
  rw [memRead_peshEnc]
  have hdec := peshDec_hdrBytes { memWrite hdrOptBase d (peshEnc s) with hdrCtrl := h } (hdr_opt_length s)
    (hdrBytes_fit s hwf)
  exact ⟨_, congrArg Host.Outcome.next hdec, rfl, rfl, memRead_writeHdr _ (hdr_opt_length s)⟩

end Sys2Proof.Machine
end

section
/-! SUPPORT. The PES packet layer (R273, R280 to R284): the repackaging of NAL units and the branches of PES_DEC.
The theorems settle O39 and O45. -/

namespace Sys2Proof.Machine

/-! ### Frames of NAL units (R273) -/

theorem avccFrame_cons (n : List Byte) (nals : List (List Byte)) :
    avccFrame (n :: nals) = be32 n.length ++ n ++ avccFrame nals := List.flatMap_cons

theorem startCodeFrame_cons (n : List Byte) (nals : List (List Byte)) :
    startCodeFrame (n :: nals) = annexBStartCode ++ n ++ startCodeFrame nals := List.flatMap_cons

theorem nalsFit_cons {n : List Byte} {nals : List (List Byte)} :
    nalsFit (n :: nals) ↔ n.length < 2 ^ 32 ∧ nalsFit nals := List.forall_mem_cons

/-- Four bytes hold a number below 2^32. -/
theorem beValue_four_lt (b0 b1 b2 b3 : Byte) : beValue [b0, b1, b2, b3] < 2 ^ 32 := by
  have h0 := b0.isLt
  have h1 := b1.isLt
  have h2 := b2.isLt
  have h3 := b3.isLt
  simp only [beValue, List.foldl_cons, List.foldl_nil]
  omega

/-- Four bytes are the length field of the number read from them: no other four bytes stand for that length. -/
theorem be32_beValue (b0 b1 b2 b3 : Byte) : be32 (beValue [b0, b1, b2, b3]) = [b0, b1, b2, b3] := by
  have h0 := b0.isLt
  have h1 := b1.isLt
  have h2 := b2.isLt
  have h3 := b3.isLt
  simp only [be32, beValue, List.foldl_cons, List.foldl_nil, List.cons.injEq, and_true, ← BitVec.toNat_inj,
    BitVec.toNat_ofNat]
  omega

@[simp] theorem annexBLoop_nil (k : Nat) : annexBLoop k [] = some [] := by cases k <;> rfl

/-- One turn of the loop: the length of the first NAL becomes a start code. -/
theorem annexBLoop_nal (k : Nat) {n : List Byte} (rest : List Byte) (h : n.length < 2 ^ 32) :
    annexBLoop (k + 1) (be32 n.length ++ n ++ rest) =
      (annexBLoop k rest).map fun out => annexBStartCode ++ n ++ out := by
  have hlen := beValue_be32 n.length h
  rw [be32] at hlen
  rw [List.append_assoc, be32]
  simp only [List.cons_append, List.nil_append, annexBLoop, hlen, List.length_append, List.take_left, List.drop_left]
  rw [if_neg (by omega)]
  cases annexBLoop k rest <;> rfl

/-- A frame of NAL units is repackaged, when the loop has as many turns as the frame has bytes. -/
theorem annexBLoop_avccFrame {nals : List (List Byte)} (hfit : nalsFit nals) {k : Nat}
    (hk : (avccFrame nals).length ≤ k) : annexBLoop k (avccFrame nals) = some (startCodeFrame nals) := by
  induction nals generalizing k with
  | nil => exact annexBLoop_nil k
  | cons n nals ih =>
    obtain ⟨hn, hnals⟩ := nalsFit_cons.1 hfit
    rw [avccFrame_cons, List.length_append, List.length_append, show (be32 n.length).length = 4 from rfl] at hk
    obtain ⟨k, rfl⟩ : ∃ j, k = j + 1 := ⟨k - 1, by omega⟩
    rw [avccFrame_cons, annexBLoop_nal k _ hn, ih hnals (by omega), startCodeFrame_cons]
    rfl

/-- Whatever the loop repackages is a frame of NAL units. -/
theorem annexBLoop_eq_some {k : Nat} {f : List Byte} : ∀ out, annexBLoop k f = some out →
    ∃ nals, nalsFit nals ∧ f = avccFrame nals ∧ out = startCodeFrame nals := by
  fun_induction annexBLoop k f with
  | case1 =>
    rintro _ ⟨⟩
    exact ⟨[], List.forall_mem_nil _, rfl, rfl⟩
  | case2 => nofun
  | case3 k b0 b1 b2 b3 rest n hlong out' hrec ih =>
    obtain ⟨nals, hfit, hrest, rfl⟩ := ih out' hrec
    rintro _ ⟨⟩
    have hlen : (rest.take n).length = n := List.length_take_of_le (Nat.not_lt.1 hlong)
    refine ⟨rest.take n :: nals, nalsFit_cons.2 ⟨?_, hfit⟩, ?_, (startCodeFrame_cons _ _).symm⟩
    · rw [hlen]
      exact beValue_four_lt b0 b1 b2 b3
    · rw [avccFrame_cons, hlen, be32_beValue, ← hrest, List.append_assoc, List.take_append_drop]
      rfl
  | case4 => nofun
  | case5 => nofun

/-- The frames that are repackaged, and what they become (R273). -/
theorem annexB_eq_some_iff (f out : List Byte) :
    annexB f = some out ↔ ∃ nals, nalsFit nals ∧ f = avccFrame nals ∧ out = startCodeFrame nals := by
  refine ⟨annexBLoop_eq_some out, ?_⟩
  rintro ⟨nals, hfit, rfl, rfl⟩
  exact annexBLoop_avccFrame hfit le_rfl

/-- Settles O39: one turn of the loop per NAL unit, and a start code is as long as the length field it replaces. -/
theorem annexBReplacesLengthPrefixes : Obligations.AnnexBReplacesLengthPrefixes := by
  intro f out
  refine ⟨annexB_eq_some_iff f out, fun h => ?_⟩
  obtain ⟨nals, -, rfl, rfl⟩ := (annexB_eq_some_iff f out).1 h
  exact startCodeFrame_length nals

/-! ### The fixed six bytes of a packet (R280, R284) -/

/-- The bytes PES_DEC finds in IN_BUF do not begin with the start code (R281). -/
theorem input_take_ne_startCode_iff (s : State) :
    s.input.take 3 ≠ startCode ↔ s.inLen.toNat < 3 ∨ memRead inBase 3 s ≠ startCode := by
  by_cases h : s.inLen.toNat < 3
  · refine iff_of_true (fun heq => ?_) (.inl h)
    have hlen := congrArg List.length heq
    rw [List.length_take, input_length, show startCode.length = 3 from rfl] at hlen
    omega
  · rw [State.input, State.inCount, memRead_take _ _ _ _ (Nat.not_lt.1 h), or_iff_right h]

/-- A 2-byte big-endian number is the two bytes side by side. -/
theorem ofNat_beValue_two (b0 b1 : Byte) : BitVec.ofNat 16 (beValue [b0, b1]) = b0 ++ b1 := by
  have h0 := b0.isLt
  have h1 := b1.isLt
  refine BitVec.eq_of_toNat_eq ?_
  rw [BitVec.toNat_ofNat, append_toNat]
  simp only [beValue, List.foldl_cons, List.foldl_nil]
  omega

/-- The stream id and the length field of the packet in IN_BUF, stored unchecked (R280, R284). -/
def storePacketFields (s : State) : State :=
  { s with
    pesdSid := s.byteAt (inBase + 3)
    pesdLen := s.byteAt (inBase + 4) ++ s.byteAt (inBase + 5) }

/-- With six bytes there, these are the fields PES_DEC stores. -/
theorem storePacketFields_eq {s : State} (h : 6 ≤ s.inLen.toNat) : storePacketFields s =
    { s with
      pesdSid := s.input.getD 3 0
      pesdLen := BitVec.ofNat 16 (beValue ((s.input.drop 4).take 2)) } := by
  have hlen : (s.input.drop 4).take 2 = [s.byteAt (inBase + 4), s.byteAt (inBase + 5)] := by
    rw [State.input, State.inCount, memRead_drop, memRead_take _ _ _ _ (by omega)]
    rfl
  rw [hlen, ofNat_beValue_two, State.input, State.inCount, memRead_getD _ _ _ _ (by omega)]
  rfl

/-! ### The branches of PES_DEC (R280 to R283) -/

/-- The input is in IN_BUF and begins with a start code and the two fixed fields. -/
structure PacketStarts (s : State) : Prop where
  fits : s.inLen.toNat ≤ s.params.inSize
  start : memRead inBase 3 s = startCode
  fixed : 6 ≤ s.inLen.toNat

/-- A packet starts in IN_BUF when none of the three checks of PES_DEC fails (R281, R432). -/
theorem PacketStarts.of_checks {s : State} (hlarge : ¬s.params.inSize < s.inLen.toNat)
    (hstart : ¬(s.inLen.toNat < 3 ∨ memRead inBase 3 s ≠ startCode)) (hshort : ¬s.inLen.toNat < 6) :
    PacketStarts s where
  fits := Nat.not_lt.1 hlarge
  start := not_not.1 (not_or.1 hstart).2
  fixed := Nat.not_lt.1 hshort

theorem pesDec_of_inLenTooLarge {s : State} (h : s.params.inSize < s.inLen.toNat) :
    pesDec s = raise .invalidOperand s := if_pos ((inLenTooLarge_iff s).2 h)

theorem pesDec_of_noStartCode {s : State} (hlen : s.inLen.toNat ≤ s.params.inSize)
    (h : s.inLen.toNat < 3 ∨ memRead inBase 3 s ≠ startCode) : pesDec s = raise .invalidStartCode s := by
  rw [pesDec, if_neg (mt (inLenTooLarge_iff s).1 (Nat.not_lt.2 hlen)), if_pos ((input_take_ne_startCode_iff s).2 h)]

/-- A start code with its fixed fields cut short (R281). -/
theorem pesDec_of_short {s : State} (hlen : s.inLen.toNat ≤ s.params.inSize)
    (hstart : ¬(s.inLen.toNat < 3 ∨ memRead inBase 3 s ≠ startCode)) (h : s.inLen.toNat < 6) :
    pesDec s = raise .malformedInput s := by
  rw [pesDec, if_neg (mt (inLenTooLarge_iff s).1 (Nat.not_lt.2 hlen)),
    if_neg (mt (input_take_ne_startCode_iff s).1 hstart)]
  exact if_pos h

theorem PacketStarts.not_inLenTooLarge {s : State} (h : PacketStarts s) : ¬s.inLenTooLarge = true :=
  mt (inLenTooLarge_iff s).1 (Nat.not_lt.2 h.fits)

theorem PacketStarts.not_short {s : State} (h : PacketStarts s) : ¬s.inCount < 6 := Nat.not_lt.2 h.fixed

theorem PacketStarts.input_take {s : State} (h : PacketStarts s) : ¬s.input.take 3 ≠ startCode := by
  have hlen : ¬s.inLen.toNat < 3 := Nat.not_lt.2 (le_trans (by decide) h.fixed)
  rw [input_take_ne_startCode_iff]
  exact not_or.2 ⟨hlen, not_not.2 h.start⟩

/-- PES_DEC of a packet whose header decodes: the payload is every byte after the header (R280, R282). -/
theorem pesDec_of_parseHdr {s : State} {hdr : PesHdr} (h : PacketStarts s)
    (hparse : parseHdr (s.input.drop 6) = some hdr) : pesDec s =
      complete .ok (emit (s.input.drop (9 + hdr.hl.toNat)) (writeHdr hdr (storePacketFields s))) := by
  rw [pesDec, if_neg h.not_inLenTooLarge, if_neg h.input_take, if_neg h.not_short,
    storePacketFields_eq h.fixed, show 9 = 6 + 3 from rfl, Nat.add_assoc, ← List.drop_drop]
  simp only [hparse]

/-- PES_DEC of a packet whose header is cut short: the event is logged, and the payload starts after the three bytes of
the default header (R283). -/
theorem pesDec_of_parseHdr_none {s : State} (h : PacketStarts s) (hparse : parseHdr (s.input.drop 6) = none) :
    pesDec s = complete .ok (logEvent .malformedInput
      (emit (s.input.drop 9) (writeHdr PesHdr.default (storePacketFields s)))) := by
  rw [pesDec, if_neg h.not_inLenTooLarge, if_neg h.input_take, if_neg h.not_short,
    storePacketFields_eq h.fixed, show 9 = 6 + 3 from rfl, ← List.drop_drop]
  simp only [hparse]

/-! ### A header and an output stored by one command -/

/-- HDR_OPT and OUT_BUF do not overlap: a header and an output stored one after the other both stay (R101). -/
theorem emit_writeHdr_bytes (bs : List Byte) {h : PesHdr} (s : State) (hopt : h.opt.length = h.hl.toNat) :
    (∀ k, k < h.hl.toNat → (emit bs (writeHdr h s)).byteAt (hdrOptBase + k) = h.opt.getD k 0) ∧
    (∀ k, k < bs.length → (emit bs (writeHdr h s)).byteAt (outBase + k) = bs.getD k 0) ∧
    ∀ a, (a < hdrOptBase ∨ hdrOptBase + h.hl.toNat ≤ a) → (a < outBase ∨ outBase + bs.length ≤ a) →
      (emit bs (writeHdr h s)).byteAt a = s.byteAt a := by
  obtain ⟨-, hout, houtFrame⟩ := emit_spec bs (writeHdr h s)
  obtain ⟨-, hhdr, hhdrFrame⟩ := writeHdr_spec h s
  rw [hopt] at hhdr hhdrFrame
  refine ⟨fun k hk => ?_, hout, fun a ha ha' => (houtFrame a ha').trans (hhdrFrame a ha)⟩
  have hhl := h.hl.isLt
  have hbelow : hdrOptBase + k < outBase := by
    simp only [hdrOptBase, outBase]
    omega
  exact (houtFrame _ (.inl hbelow)).trans (hhdr k hk)

/-- What a command that succeeds with a header and an output changes (R23, R201, R440). -/
theorem complete_emit_writeHdr_eq (bs : List Byte) (h : PesHdr) (s : State) :
    complete .ok (emit bs (writeHdr h s)) = { s with
      mem := (complete .ok (emit bs (writeHdr h s))).mem
      hdrCtrl := { f0 := h.f0, f1 := h.f1, hl := h.hl }
      outLen := BitVec.ofNat 32 bs.length, err := 0, busy := false, done := true } := by
  obtain ⟨hemit, -⟩ := complete_emit_spec bs (writeHdr h s)
  generalize (complete .ok (emit bs (writeHdr h s))).mem = m at hemit ⊢
  exact hemit

/-- The log of an event and a successful completion do not touch the same fields. -/
theorem complete_ok_logEvent (st : Status) (s : State) :
    complete .ok (logEvent st s) = logEvent st (complete .ok s) := rfl

/-- The bytes of the input from byte `k` on. -/
theorem input_drop (s : State) (k : Nat) : s.input.drop k = memRead (inBase + k) (s.inLen.toNat - k) s :=
  memRead_drop _ _ _ _

/-- The header that stands in IN_BUF after the six fixed bytes of a packet (R280). -/
def nestedHdr (s : State) : PesHdr where
  f0 := s.byteAt (inBase + 6)
  f1 := s.byteAt (inBase + 7)
  hl := s.byteAt (inBase + 8)
  opt := memRead (inBase + 9) (s.byteAt (inBase + 8)).toNat s

theorem nestedHdr_opt_length (s : State) : (nestedHdr s).opt.length = (nestedHdr s).hl.toNat := memRead_length _ _ _

/-- It is what the nested decode reads, when the input holds all of it. -/
theorem parseHdr_input_drop {s : State} (h : ¬NestedHeaderCut s) : parseHdr (s.input.drop 6) = some (nestedHdr s) := by
  obtain ⟨h9, hhl⟩ := not_or.1 h
  have hwhole : 3 + (s.byteAt (inBase + 8)).toNat ≤ s.inLen.toNat - 6 := by omega
  rw [input_drop]
  exact parseHdr_memRead (base := inBase + 6) hwhole

/-- The state after a cut header (R283): the default header, the logged event, and the payload from byte 9 on. -/
theorem pesDec_headerCut_spec {s : State} (h : PacketStarts s) (hcut : NestedHeaderCut s) :
    pesDec s = { s with
      mem := (pesDec s).mem
      pesdSid := s.byteAt (inBase + 3), pesdLen := s.byteAt (inBase + 4) ++ s.byteAt (inBase + 5)
      hdrCtrl := { f0 := 0x80, f1 := 0, hl := 0 }
      diag := s.diag.log .malformedInput
      outLen := BitVec.ofNat 32 (s.inLen.toNat - 9), err := 0, busy := false, done := true } ∧
    StoresAt s (pesDec s) outBase (memRead (inBase + 9) (s.inLen.toNat - 9) s) := by
  rw [pesDec_of_parseHdr_none h ((parseHdr_input_eq_none_iff h.fixed).2 hcut), input_drop, complete_ok_logEvent]
  generalize hbs : memRead (inBase + 9) (s.inLen.toNat - 9) s = bs
  have hlen : s.inLen.toNat - 9 = bs.length := by rw [← hbs, memRead_length]
  constructor
  · have hregs := complete_emit_writeHdr_eq bs PesHdr.default (storePacketFields s)
    rw [hlen]
    generalize complete .ok (emit _ _) = t at hregs ⊢
    generalize t.mem = m at hregs
    subst hregs
    rfl
  · obtain ⟨-, hout, hframe⟩ := emit_writeHdr_bytes bs (h := PesHdr.default) (storePacketFields s) rfl
    simp only [StoresAt, byteAt_logEvent, byteAt_complete]
    exact ⟨hout, fun a ha => hframe a (lt_or_ge _ _) ha⟩

/-- The state after a whole header (R280, R282): the header in HDR and every byte after it in OUT_BUF. -/
theorem pesDec_header_spec {s : State} (h : PacketStarts s) (hwhole : ¬NestedHeaderCut s) :
    let hl := (s.byteAt (inBase + 8)).toNat
    pesDec s = { s with
      mem := (pesDec s).mem
      pesdSid := s.byteAt (inBase + 3), pesdLen := s.byteAt (inBase + 4) ++ s.byteAt (inBase + 5)
      hdrCtrl := { f0 := s.byteAt (inBase + 6), f1 := s.byteAt (inBase + 7), hl := s.byteAt (inBase + 8) }
      outLen := BitVec.ofNat 32 (s.inLen.toNat - (9 + hl)), err := 0, busy := false, done := true } ∧
    (∀ k, k < hl → (pesDec s).byteAt (hdrOptBase + k) = s.byteAt (inBase + 9 + k)) ∧
    (∀ k, k < s.inLen.toNat - (9 + hl) → (pesDec s).byteAt (outBase + k) = s.byteAt (inBase + 9 + hl + k)) ∧
    ∀ a, (a < hdrOptBase ∨ hdrOptBase + hl ≤ a) → (a < outBase ∨ outBase + (s.inLen.toNat - (9 + hl)) ≤ a) →
      (pesDec s).byteAt a = s.byteAt a := by
  intro hl
  rw [pesDec_of_parseHdr h (parseHdr_input_drop hwhole), input_drop, ← Nat.add_assoc]
  have hregs := complete_emit_writeHdr_eq (memRead (inBase + 9 + hl) (s.inLen.toNat - (9 + hl)) s) (nestedHdr s)
    (storePacketFields s)
  obtain ⟨hopt, hout, hframe⟩ := emit_writeHdr_bytes (memRead (inBase + 9 + hl) (s.inLen.toNat - (9 + hl)) s)
    (storePacketFields s) (nestedHdr_opt_length s)
  rw [memRead_length] at hregs hout hframe
  simp only [byteAt_complete]
  exact ⟨hregs, fun k hk => (hopt k hk).trans (memRead_getD _ _ _ _ hk),
    fun k hk => (hout k hk).trans (memRead_getD _ _ _ _ hk), hframe⟩

/-- Settles O45, by the branches of PES_DEC. -/
theorem pesDecReadsPacket : Obligations.PesDecReadsPacket := by
  intro s
  refine ⟨pesDec s, rfl, ?_⟩
  intro n
  split_ifs with hlarge hstart hshort hcut
  · rw [pesDec_of_inLenTooLarge hlarge]
    exact raise_eq .invalidOperand s
  · rw [pesDec_of_noStartCode (Nat.not_lt.1 hlarge) hstart]
    exact raise_eq .invalidStartCode s
  · rw [pesDec_of_short (Nat.not_lt.1 hlarge) hstart hshort]
    exact raise_eq .malformedInput s
  · exact pesDec_headerCut_spec (.of_checks hlarge hstart hshort) hcut
  · exact pesDec_header_spec (.of_checks hlarge hstart hshort) hcut

end Sys2Proof.Machine
end

section
/-! SUPPORT. The TS segmentation engine (R320 to R336): how many packets a payload needs, the packets the
finite-state machine builds by their number, and the state TS_SEGMENT leaves. The theorems settle O56, O57, O58, O59
and O60. -/

namespace Sys2Proof.Machine

/-! ### The filling of the first and the trailing packets (R323, R328) -/

/-- `Fill` of the first packet in closed form, all rows of R323 in one: `n` bytes of payload, with a PCR or without. -/
def firstFilled (n : Nat) (pcr : Bool) : Filled where
  w := if pcr then min n 176 else if n = 183 then 182 else min n 184
  af := pcr || decide (n < 184)
  fl := if pcr then 0x10 else 0x00
  pl := decide (n ≠ 0)
  stuff := if pcr then 176 - n else 182 - n
  pad := 0

theorem fill_first (n : Nat) (pcr : Bool) : fill n true pcr (if pcr then 0x10 else 0x00) = firstFilled n pcr := by
  cases pcr with
  | true =>
    by_cases h : 176 ≤ n
    · simp [fill, firstFilled, afOverhead, Filled.of, pcrFlag, h, show n ≠ 0 by omega]
    · simp [fill, firstFilled, afOverhead, Filled.of, pcrFlag, h, show n ≤ 176 by omega, Nat.pos_iff_ne_zero]
  | false =>
    rcases (by omega : 184 ≤ n ∨ n = 183 ∨ n ≤ 182) with h | rfl | h
    · simp [fill, firstFilled, afOverhead, Filled.of, h, show n ≠ 183 ∧ n ≠ 0 ∧ 182 ≤ n by omega]
    · rfl
    · simp [fill, firstFilled, afOverhead, Filled.of, h, show ¬184 ≤ n ∧ n ≠ 183 ∧ n ≤ 184 ∧ n < 184 by omega,
        Nat.pos_iff_ne_zero]

theorem pcrFlag_firstFilled (n : Nat) (pcr : Bool) : pcrFlag (firstFilled n pcr).fl = pcr := by
  cases pcr with
  | true => exact show pcrFlag 0x10 = true by decide
  | false => exact pcrFlag_zero

/-- The length byte of the first packet's adaptation field (R323). -/
theorem computeAfLen_firstFilled (n : Nat) (pcr : Bool) :
    computeAfLen (firstFilled n pcr) = if pcr then 7 + (176 - n) else 1 + (182 - n) := by
  rw [computeAfLen, pcrFlag_firstFilled]
  cases pcr <;> rfl

/-- `Fill` of a trailing packet of `n` bytes (R328, R329). -/
def trailingFilled (n : Nat) : Filled where
  w := n
  af := true
  fl := 0x00
  pl := true
  stuff := 182 - n
  pad := 0

theorem fill_trailing {n : Nat} (h1 : 1 ≤ n) (h2 : n ≤ 182) : fill n true false 0x00 = trailingFilled n :=
  fill_short n h1 h2

theorem segFirstCount_eq (c : SegCtx) : segFirstCount c = (firstFilled c.payload.length c.pcrV).w := by
  rw [segFirstCount, fill_first]

theorem segFirstPacket_eq (c : SegCtx) (cc : BitVec 4) : segFirstPacket c cc =
    tsPacketBytes (segHeader c true cc) (firstFilled c.payload.length c.pcrV) c.payload c.base c.ext := by
  rw [segFirstPacket, fill_first]

/-- A payload that is not empty advances the counter with the first packet (R325). -/
theorem segFirstNextCc_of_ne_nil (c : SegCtx) (cc : BitVec 4) (h : c.payload.length ≠ 0) :
    segFirstNextCc c cc = cc + 1 := by
  rw [segFirstNextCc, fill_first]
  exact if_pos (decide_eq_true h)

/-! ### The packet count (R333, R336) -/

/-- The number of middle packets (R324). -/
def segMiddleCount (c : SegCtx) : Nat := (c.payload.length - segFirstCount c) / 184

/-- The bytes left for the trailing packets (R327). -/
def segRemainder (c : SegCtx) : Nat := (c.payload.length - segFirstCount c) % 184

/-- The number of trailing packets for a remainder (R328, R329). -/
def segTrailingCount (r : Nat) : Nat := if r = 0 then 0 else if r = 183 then 2 else 1

/-- The count as the first packet's, the middle packets' and the trailing packets' (R333). -/
theorem segCount_eq (c : SegCtx) :
    segCount c.payload.length c.pcrV = 1 + segMiddleCount c + segTrailingCount (segRemainder c) := by
  have hw : segFirstCount c = (if (if c.pcrV then 176 else 184) ≤ c.payload.length then (if c.pcrV then 176 else 184)
      else if c.pcrV then c.payload.length else if c.payload.length ≤ 182 then c.payload.length else 182) := by
    rw [segFirstCount_eq]
    cases c.pcrV <;> simp only [firstFilled, if_true, if_false, Bool.false_eq_true] <;> split_ifs <;> omega
  rw [segMiddleCount, segRemainder, hw]
  rfl

theorem segCount_le (len : Nat) (pcr : Bool) : segCount len pcr ≤ len / 184 + 3 := by
  unfold segCount
  dsimp only
  split_ifs <;> omega

/-- No payload that fits the default IN_BUF needs more than 713 packets (R336). -/
theorem segCount_le_713 {len : Nat} (pcr : Bool) (h : len ≤ 131072) : segCount len pcr ≤ 713 := by
  unfold segCount
  dsimp only
  split_ifs <;> omega

/-! ### The packets by their number -/

theorem segment_out (c : SegCtx) (cc : BitVec 4) : (segment c cc).out = segFirstPacket c cc ::
    ((List.range (segMiddleCount c)).map (segMiddlePacket c (segFirstCount c) (segFirstNextCc c cc)) ++
      segTrailing c (segFirstNextCc c cc + BitVec.ofNat 4 (segMiddleCount c)) (segRemainder c)) := by
  rw [segment_eq, segMiddleCount, segRemainder]

theorem segTrailing_length (c : SegCtx) (cc : BitVec 4) (r : Nat) : (segTrailing c cc r).length = segTrailingCount r := by
  unfold segTrailing segTrailingCount
  split_ifs <;> rfl

theorem segment_out_length (c : SegCtx) (cc : BitVec 4) :
    (segment c cc).out.length = segCount c.payload.length c.pcrV := by
  rw [segment_out, segCount_eq]
  simp [segTrailing_length]
  omega

theorem segment_out_first (c : SegCtx) (cc : BitVec 4) : (segment c cc).out.getD 0 [] = segFirstPacket c cc := by
  rw [segment_out, List.getD_cons_zero]

theorem segment_out_middle (c : SegCtx) (cc : BitVec 4) {i : Nat} (h : i < segMiddleCount c) :
    (segment c cc).out.getD (1 + i) [] = segMiddlePacket c (segFirstCount c) (segFirstNextCc c cc) i := by
  rw [segment_out, Nat.add_comm, List.getD_cons_succ, List.getD_append _ _ _ _ (by simpa using h)]
  simp [h]

theorem segment_out_trailing (c : SegCtx) (cc : BitVec 4) (i : Nat) : (segment c cc).out.getD (1 + segMiddleCount c + i) [] =
    (segTrailing c (segFirstNextCc c cc + BitVec.ofNat 4 (segMiddleCount c)) (segRemainder c)).getD i [] := by
  rw [segment_out, show 1 + segMiddleCount c + i = segMiddleCount c + i + 1 by omega, List.getD_cons_succ,
    List.getD_append_right _ _ _ _ (by simp)]
  simp

/-- A packet number below the count is the first packet's, a middle packet's or a trailing packet's. -/
theorem packetNumber_cases {c : SegCtx} {j : Nat} (h : j < segCount c.payload.length c.pcrV) :
    j = 0 ∨ (∃ i < segMiddleCount c, j = 1 + i) ∨ ∃ i < segTrailingCount (segRemainder c), j = 1 + segMiddleCount c + i := by
  rw [segCount_eq] at h
  rcases (by omega : j = 0 ∨ (1 ≤ j ∧ j < 1 + segMiddleCount c) ∨ 1 + segMiddleCount c ≤ j) with h0 | h1 | h2
  · exact .inl h0
  · exact .inr (.inl ⟨j - 1, by omega, by omega⟩)
  · exact .inr (.inr ⟨j - (1 + segMiddleCount c), by omega, by omega⟩)

/-- The remainder is a rest of the payload after the middle packets (R327). -/
theorem middle_remainder (c : SegCtx) :
    segFirstCount c + 184 * segMiddleCount c + segRemainder c = c.payload.length ∧ segRemainder c < 184 := by
  have hw := segFirstCount_le c
  unfold segMiddleCount segRemainder
  omega

/-- Remainder 183 is split (R329). -/
theorem segTrailing_split (c : SegCtx) (cc : BitVec 4) : segTrailing c cc 183 =
    [segTrailingPacket c cc (c.payload.length - 183) 182, segTrailingPacket c (cc + 1) (c.payload.length - 1) 1] := rfl

/-- A remainder of 1 to 182 bytes makes one packet (R328). -/
theorem segTrailing_short (c : SegCtx) (cc : BitVec 4) {r : Nat} (h1 : 1 ≤ r) (h2 : r ≤ 182) :
    segTrailing c cc r = [segTrailingPacket c cc (c.payload.length - r) r] := by
  rw [segTrailing, if_neg (by omega), if_neg (by omega)]

theorem segTrailingCount_short {r : Nat} (h1 : 1 ≤ r) (h2 : r ≤ 182) : segTrailingCount r = 1 := by
  rw [segTrailingCount, if_neg (by omega), if_neg (by omega)]

/-- Each trailing packet carries 1 to 182 bytes of the payload and the next counter (R325, R328, R329). -/
theorem segTrailing_getD (c : SegCtx) (cc : BitVec 4) {r i : Nat} (hr : r < 184) (hlen : r ≤ c.payload.length)
    (hi : i < segTrailingCount r) : ∃ pos n, 1 ≤ n ∧ n ≤ 182 ∧ pos + n ≤ c.payload.length ∧
      (segTrailing c cc r).getD i [] = segTrailingPacket c (cc + BitVec.ofNat 4 i) pos n := by
  unfold segTrailingCount at hi
  unfold segTrailing
  split_ifs at hi ⊢ with h0 h183
  · omega
  · obtain rfl | rfl : i = 0 ∨ i = 1 := by omega
    · exact ⟨c.payload.length - 183, 182, by omega, by omega, by omega, by simp⟩
    · exact ⟨c.payload.length - 1, 1, by omega, by omega, by omega, rfl⟩
  · obtain rfl : i = 0 := by omega
    exact ⟨c.payload.length - r, r, by omega, by omega, by omega, by simp⟩

/-! ### The length of a packet (R320) -/

theorem tsPacketBytes_fill_length_of {n : Nat} {data : List Byte} (hn : data.length = n) (u a : Bool) (fl : Byte)
    (h : TsHeader) (base : BitVec 33) (ext : BitVec 9) :
    (tsPacketBytes h (fill n u a fl) data base ext).length = 188 := by
  subst hn
  exact tsPacketBytes_fill_length u a fl h data base ext

theorem segment_packet_length (c : SegCtx) (cc : BitVec 4) {pkt : List Byte} (h : pkt ∈ (segment c cc).out) :
    pkt.length = 188 := by
  obtain ⟨hlen, hr⟩ := middle_remainder c
  obtain ⟨j, hj, rfl⟩ := List.mem_iff_getElem.1 h
  rw [← List.getD_eq_getElem _ [] hj]
  rw [segment_out_length] at hj
  obtain rfl | ⟨i, hi, rfl⟩ | ⟨i, hi, rfl⟩ := packetNumber_cases hj
  · rw [segment_out_first]
    exact tsPacketBytes_fill_length_of rfl ..
  · rw [segment_out_middle c cc hi]
    exact tsPacketBytes_fill_length_of (by simp; omega) ..
  · rw [segment_out_trailing]
    obtain ⟨pos, n, -, -, hpos, e⟩ := segTrailing_getD c _ hr (by omega) hi
    rw [e]
    exact tsPacketBytes_fill_length_of (by simp; omega) ..

/-! ### The header of a packet (R321, R325, R332) -/

/-- The header of packet number `j`, all of it but AF. -/
def HasSegmentHeader (c : SegCtx) (cc : BitVec 4) (j : Nat) (pkt : List Byte) : Prop :=
  pkt.getD 0 0 = 0x47 ∧ packetHeader pkt =
    { tei := false, pusi := decide (j = 0), prio := false, pid := c.pid, sc := 0, af := (packetHeader pkt).af
      pl := decide (c.payload.length ≠ 0), cc := cc + BitVec.ofNat 4 j }

/-- A packet serialized from a header of TS_SEGMENT has that header. -/
theorem hasSegmentHeader_tsPacketBytes {c : SegCtx} {cc k : BitVec 4} {j : Nat} {pusi : Bool} {f : Filled}
    (hpusi : pusi = decide (j = 0)) (hpl : f.pl = decide (c.payload.length ≠ 0)) (hcc : k = cc + BitVec.ofNat 4 j)
    (data : List Byte) :
    HasSegmentHeader c cc j (tsPacketBytes (segHeader c pusi k) f data c.base c.ext) := by
  obtain ⟨hsync, hhdr⟩ := packetHeader_tsPacketBytes (segHeader c pusi k) f data c.base c.ext
  refine ⟨hsync, ?_⟩
  rw [hhdr, hpl, hpusi, hcc]
  rfl

theorem segment_packet_header (c : SegCtx) (cc : BitVec 4) {j : Nat} (hj : j < segCount c.payload.length c.pcrV) :
    HasSegmentHeader c cc j ((segment c cc).out.getD j []) := by
  obtain ⟨hlen, hr⟩ := middle_remainder c
  obtain rfl | ⟨i, hi, rfl⟩ | ⟨i, hi, rfl⟩ := packetNumber_cases hj
  · rw [segment_out_first, segFirstPacket_eq]
    exact hasSegmentHeader_tsPacketBytes rfl rfl (by simp) _
  · have hne : c.payload.length ≠ 0 := by omega
    rw [segment_out_middle c cc hi, segFirstNextCc_of_ne_nil c cc hne, segMiddlePacket, fill_184]
    exact hasSegmentHeader_tsPacketBytes (by simp) (decide_eq_true hne).symm
      (by rw [BitVec.ofNat_add, BitVec.add_assoc]; rfl) _
  · rw [segment_out_trailing]
    obtain ⟨pos, n, hn1, hn, hpos, e⟩ := segTrailing_getD c
      (segFirstNextCc c cc + BitVec.ofNat 4 (segMiddleCount c)) hr (by omega) hi
    have hne : c.payload.length ≠ 0 := by omega
    rw [e, segFirstNextCc_of_ne_nil c cc hne, segTrailingPacket, fill_trailing hn1 hn]
    exact hasSegmentHeader_tsPacketBytes (by simp) (decide_eq_true hne).symm
      (by simp only [BitVec.ofNat_add, ← BitVec.add_assoc]; rfl) _

/-! ### The payload region of a packet (R334) -/

theorem payloadRegion_segFirstPacket (c : SegCtx) (cc : BitVec 4) :
    payloadRegion (segFirstPacket c cc) = c.payload.take (segFirstCount c) := by
  rw [segFirstPacket, payloadRegion_fill, fill_first, segFirstCount_eq]
  exact List.append_nil _

theorem payloadRegion_segMiddlePacket (c : SegCtx) (w : Nat) (cc : BitVec 4) (j : Nat) :
    payloadRegion (segMiddlePacket c w cc j) = (c.payload.drop (w + 184 * j)).take 184 := by
  rw [segMiddlePacket, payloadRegion_tsPacketBytes _ _ _ _ _ (fill_pl _ _ _ _) fun _ => computeAfLen_fill_le _ _ _ _,
    fill_184]
  simp [ffs]

theorem payloadRegion_segTrailingPacket (c : SegCtx) (cc : BitVec 4) (pos : Nat) {n : Nat} (h1 : 1 ≤ n) (h2 : n ≤ 182) :
    payloadRegion (segTrailingPacket c cc pos n) = (c.payload.drop pos).take n := by
  rw [segTrailingPacket, payloadRegion_tsPacketBytes _ _ _ _ _ (fill_pl _ _ _ _) fun _ => computeAfLen_fill_le _ _ _ _,
    fill_trailing h1 h2]
  simp [trailingFilled, ffs]

/-- `m` chunks of 184 bytes, joined. -/
theorem flatMap_chunks (l : List Byte) (w m : Nat) :
    ((List.range m).flatMap fun j => (l.drop (w + 184 * j)).take 184) = (l.drop w).take (184 * m) := by
  induction m with
  | zero => simp
  | succ m ih =>
    rw [List.range_succ, List.flatMap_append, ih, Nat.mul_succ, List.take_add, List.drop_drop]
    simp

/-- The trailing packets carry the last `r` bytes (R327 to R329). -/
theorem payloadRegions_segTrailing (c : SegCtx) (cc : BitVec 4) {r : Nat} (hr : r < 184) (hlen : r ≤ c.payload.length) :
    (segTrailing c cc r).flatMap payloadRegion = c.payload.drop (c.payload.length - r) := by
  unfold segTrailing
  split_ifs with h0 h183
  · simp [h0]
  · subst h183
    have hlast : c.payload.length - 1 = c.payload.length - 183 + 182 := by omega
    rw [List.flatMap_cons, List.flatMap_singleton, payloadRegion_segTrailingPacket _ _ _ (by omega) (by omega),
      payloadRegion_segTrailingPacket _ _ _ (by omega) (by omega), hlast, ← List.drop_drop,
      List.take_of_length_le (i := 1) (by simp; omega), List.take_append_drop]
  · rw [List.flatMap_singleton, payloadRegion_segTrailingPacket _ _ _ (by omega) (by omega),
      List.take_of_length_le (by simp; omega)]

/-- The payload regions of all packets, joined, are the payload (R334). -/
theorem segment_reconstructs (c : SegCtx) (cc : BitVec 4) : (segment c cc).out.flatMap payloadRegion = c.payload := by
  obtain ⟨hlen, hr⟩ := middle_remainder c
  have hrest : c.payload.length - segRemainder c = segFirstCount c + 184 * segMiddleCount c := by omega
  rw [segment_out, List.flatMap_cons, List.flatMap_append, List.flatMap_map,
    payloadRegions_segTrailing c _ hr (by omega), payloadRegion_segFirstPacket]
  simp only [payloadRegion_segMiddlePacket]
  rw [flatMap_chunks, hrest, ← List.drop_drop, List.take_append_drop, List.take_append_drop]

/-! ### The adaptation field of a packet (R373, R323, R328) -/

/-- Without the PCR flag the stuffing follows the flags byte. -/
theorem stuffing_tsPacketBytes (h : TsHeader) {f : Filled} (data : List Byte) (base : BitVec 33) (ext : BitVec 9)
    (ha : f.af = true) (hpcr : pcrFlag f.fl = false) :
    ((tsPacketBytes h f data base ext).drop 6).take f.stuff = List.replicate f.stuff 0xFF := by
  obtain ⟨-, -, hrest⟩ := af_tsPacketBytes h f data base ext ha
  simp [hrest, hpcr, ffs]

/-- With the PCR flag the PCR follows the flags byte, and the stuffing the PCR. -/
theorem pcr_tsPacketBytes (h : TsHeader) {f : Filled} (data : List Byte) (base : BitVec 33) (ext : BitVec 9)
    (ha : f.af = true) (hpcr : pcrFlag f.fl = true) :
    ((tsPacketBytes h f data base ext).drop 6).take 6 = pcrBytes base ext ∧
      ((tsPacketBytes h f data base ext).drop 12).take f.stuff = List.replicate f.stuff 0xFF := by
  obtain ⟨-, -, hrest⟩ := af_tsPacketBytes h f data base ext ha
  rw [if_pos hpcr, List.append_assoc, List.append_assoc] at hrest
  rw [show 12 = 6 + 6 from rfl, ← List.drop_drop, hrest, List.take_left' (pcrBytes_length base ext),
    List.drop_left' (pcrBytes_length base ext)]
  simp [ffs]

/-- The parts of an adaptation field that every kind of packet has: AF, the length byte and the flags byte. -/
theorem afHead_tsPacketBytes (h : TsHeader) {f : Filled} (data : List Byte) (base : BitVec 33) (ext : BitVec 9)
    (ha : f.af = true) :
    (packetHeader (tsPacketBytes h f data base ext)).af = true ∧
      (tsPacketBytes h f data base ext).getD 4 0 = BitVec.ofNat 8 (computeAfLen f) ∧
      (tsPacketBytes h f data base ext).getD 5 0 = f.fl := by
  obtain ⟨hlen, hflags, -⟩ := af_tsPacketBytes h f data base ext ha
  rw [(packetHeader_tsPacketBytes h f data base ext).2]
  exact ⟨ha, hlen, hflags⟩

/-- Everything of a first packet with a PCR (R323). -/
theorem segFirstPacket_pcr {c : SegCtx} (cc : BitVec 4) (hpcr : c.pcrV = true) :
    (packetHeader (segFirstPacket c cc)).af = true ∧
      (segFirstPacket c cc).getD 4 0 = BitVec.ofNat 8 (7 + (176 - c.payload.length)) ∧
      (segFirstPacket c cc).getD 5 0 = 0x10 ∧
      ((segFirstPacket c cc).drop 6).take 6 = pcrBytes c.base c.ext ∧
      ((segFirstPacket c cc).drop 12).take (176 - c.payload.length) = List.replicate (176 - c.payload.length) 0xFF ∧
      payloadRegion (segFirstPacket c cc) = c.payload.take (min c.payload.length 176) := by
  have hregion := payloadRegion_segFirstPacket c cc
  have haf : (firstFilled c.payload.length true).af = true := rfl
  rw [segFirstCount_eq] at hregion
  rw [segFirstPacket_eq, hpcr] at hregion ⊢
  obtain ⟨hhdr, hlen, hflags⟩ := afHead_tsPacketBytes (segHeader c true cc) c.payload c.base c.ext haf
  obtain ⟨hbytes, hstuff⟩ := pcr_tsPacketBytes (segHeader c true cc) c.payload c.base c.ext haf (pcrFlag_firstFilled _ _)
  rw [computeAfLen_firstFilled] at hlen
  exact ⟨hhdr, hlen, hflags, hbytes, hstuff, hregion⟩

/-- Everything of a first packet without a PCR that has an adaptation field all the same (R323). -/
theorem segFirstPacket_short {c : SegCtx} (cc : BitVec 4) (hpcr : c.pcrV = false) (hlt : c.payload.length < 184) :
    (packetHeader (segFirstPacket c cc)).af = true ∧
      (segFirstPacket c cc).getD 4 0 = BitVec.ofNat 8 (1 + (182 - c.payload.length)) ∧
      (segFirstPacket c cc).getD 5 0 = 0x00 ∧
      ((segFirstPacket c cc).drop 6).take (182 - c.payload.length) = List.replicate (182 - c.payload.length) 0xFF ∧
      payloadRegion (segFirstPacket c cc) = c.payload.take (min c.payload.length 182) := by
  have hregion := payloadRegion_segFirstPacket c cc
  have haf : (firstFilled c.payload.length false).af = true := decide_eq_true hlt
  have hw : (firstFilled c.payload.length false).w = min c.payload.length 182 := by
    simp only [firstFilled, Bool.false_eq_true, if_false]
    split_ifs <;> omega
  rw [segFirstCount_eq] at hregion
  rw [segFirstPacket_eq, hpcr] at hregion ⊢
  rw [hw] at hregion
  obtain ⟨hhdr, hlen, hflags⟩ := afHead_tsPacketBytes (segHeader c true cc) c.payload c.base c.ext haf
  rw [computeAfLen_firstFilled] at hlen
  exact ⟨hhdr, hlen, hflags, stuffing_tsPacketBytes _ _ _ _ haf (pcrFlag_firstFilled _ _), hregion⟩

/-- A first packet without a PCR and with a full payload has no adaptation field (R323). -/
theorem segFirstPacket_full {c : SegCtx} (cc : BitVec 4) (hpcr : c.pcrV = false) (hge : 184 ≤ c.payload.length) :
    (packetHeader (segFirstPacket c cc)).af = false ∧ payloadRegion (segFirstPacket c cc) = c.payload.take 184 := by
  rw [payloadRegion_segFirstPacket, segFirstCount_eq, segFirstPacket_eq, (packetHeader_tsPacketBytes _ _ _ _ _).2, hpcr]
  simp only [firstFilled, Bool.false_eq_true, if_false, Bool.false_or, decide_eq_false_iff_not]
  rw [if_neg (by omega), min_eq_right hge]
  exact ⟨by omega, rfl⟩

theorem segMiddlePacket_af (c : SegCtx) (w : Nat) (cc : BitVec 4) (j : Nat) :
    (packetHeader (segMiddlePacket c w cc j)).af = false := by
  rw [segMiddlePacket, (packetHeader_tsPacketBytes _ _ _ _ _).2, fill_184]

/-- The adaptation field of a trailing packet: no PCR, and stuffing up to the payload (R328). -/
theorem segTrailingPacket_af (c : SegCtx) (cc : BitVec 4) (pos : Nat) {n : Nat} (h1 : 1 ≤ n) (h2 : n ≤ 182) :
    (packetHeader (segTrailingPacket c cc pos n)).af = true ∧
      (segTrailingPacket c cc pos n).getD 4 0 = BitVec.ofNat 8 (183 - n) ∧
      (segTrailingPacket c cc pos n).getD 5 0 = 0x00 ∧
      ((segTrailingPacket c cc pos n).drop 6).take (182 - n) = List.replicate (182 - n) 0xFF := by
  rw [segTrailingPacket, fill_trailing h1 h2]
  obtain ⟨hhdr, hlen, hflags⟩ := afHead_tsPacketBytes (segHeader c false cc) (f := trailingFilled n)
    ((c.payload.drop pos).take n) c.base c.ext rfl
  have hafLen : computeAfLen (trailingFilled n) = 183 - n := by
    rw [computeAfLen, show pcrFlag (trailingFilled n).fl = false from pcrFlag_zero, trailingFilled]
    simp only [Bool.false_eq_true, if_false]
    omega
  rw [hafLen] at hlen
  exact ⟨hhdr, hlen, hflags, stuffing_tsPacketBytes (f := trailingFilled n) _ _ _ _ rfl pcrFlag_zero⟩

/-! ### The state TS_SEGMENT leaves (R330, R331) -/

@[simp] theorem segCtx_payload_length (s : State) : s.segCtx.payload.length = s.inLen.toNat := input_length s

theorem segCtx_packetCount (s : State) :
    (segment s.segCtx s.tsh.cc).out.length = segCount s.inLen.toNat s.pcrV := by
  rw [segment_out_length, segCtx_payload_length]
  rfl

/-- The state after a TS_SEGMENT that succeeds. -/
def segmentedState (s : State) : State :=
  complete .ok
    { emit (segment s.segCtx s.tsh.cc).out.flatten s with
      pktCount := BitVec.ofNat 32 (segCount s.inLen.toNat s.pcrV)
      tsh := { s.tsh with cc := (segment s.segCtx s.tsh.cc).cc } }

/-- TS_SEGMENT by its two tests. -/
theorem tsSegment_eq (s : State) : tsSegment s =
    if s.params.inSize < s.inLen.toNat then raise .invalidOperand { s with pktCount := 0 }
    else if s.params.outSize < 188 * segCount s.inLen.toNat s.pcrV then raise .bufferOverflow { s with pktCount := 0 }
    else segmentedState s := by
  simp only [tsSegment, inLenTooLarge_iff]
  rfl

theorem eq_tsSegment_of_exec {s t : State} (h : exec .tsSegment s = .next t) : t = tsSegment s :=
  (Host.Outcome.next.inj h).symm

/-- A TS_SEGMENT without an error ran to its end, and the packets fit OUT_BUF. -/
theorem eq_segmentedState_of_exec {s t : State} (h : exec .tsSegment s = .next t) (herr : t.err = 0) :
    t = segmentedState s ∧ 188 * segCount s.inLen.toNat s.pcrV ≤ s.params.outSize := by
  obtain rfl := eq_tsSegment_of_exec h
  rw [tsSegment_eq] at herr ⊢
  split_ifs at herr ⊢ with hin hout
  · rw [raise_err] at herr
    exact absurd herr (by decide)
  · rw [raise_err] at herr
    exact absurd herr (by decide)
  · exact ⟨rfl, Nat.not_lt.1 hout⟩

/-- When an input is in range, BufferOverflow says that the packets do not fit (R336). -/
theorem tsSegment_bufferOverflow_iff {s : State} (hin : s.inLen.toNat ≤ s.params.inSize) :
    (tsSegment s).err = 7 ↔ s.params.outSize < 188 * segCount s.inLen.toNat s.pcrV := by
  rw [tsSegment_eq, if_neg (Nat.not_lt.2 hin)]
  split_ifs with hout
  · exact iff_of_true rfl hout
  · exact iff_of_false (show ¬(0 : BitVec 4) = 7 by decide) hout

theorem segmentedState_pktCount (s : State) :
    (segmentedState s).pktCount.toNat = segCount s.inLen.toNat s.pcrV := by
  have hle := segCount_le s.inLen.toNat s.pcrV
  have hlen := s.inLen.isLt
  exact ofNat_toNat_of_lt (by omega)

/-- OUT_BUF holds the packets of the finite-state machine one after the other. -/
theorem packetAt_segmentedState {s : State} {j : Nat} (hj : j < segCount s.inLen.toNat s.pcrV) :
    packetAt j (segmentedState s) = (segment s.segCtx s.tsh.cc).out.getD j [] := by
  have hpkt : ∀ pkt ∈ (segment s.segCtx s.tsh.cc).out, pkt.length = 188 := fun _ => segment_packet_length _ _
  have hcount := segCtx_packetCount s
  rw [← take_drop_flatten 188 _ hpkt j (by omega)]
  exact memRead_memWrite_part s outBase _ (188 * j) 188 (by rw [flatten_length 188 _ hpkt]; omega)

theorem segmentedState_outLen {s : State} (h : 188 * segCount s.inLen.toNat s.pcrV < 2 ^ 32) :
    (segmentedState s).outLen.toNat = 188 * segCount s.inLen.toNat s.pcrV := by
  have hflat := flatten_length 188 (segment s.segCtx s.tsh.cc).out fun _ => segment_packet_length _ _
  rw [segCtx_packetCount] at hflat
  rw [← show (segment s.segCtx s.tsh.cc).out.flatten.length = _ from hflat] at h ⊢
  exact ofNat_toNat_of_lt h

/-- A part of the payload is a part of IN_BUF. -/
theorem segCtx_payload_part {s : State} {pos n : Nat} (h : pos + n ≤ s.inLen.toNat) :
    (s.segCtx.payload.drop pos).take n = memRead (inBase + pos) n s := by
  rw [show s.segCtx.payload = s.input from rfl, input_drop, memRead_take _ _ _ _ (by omega)]

theorem segCtx_payload_take {s : State} {n : Nat} (h : n ≤ s.inLen.toNat) :
    s.segCtx.payload.take n = memRead inBase n s := memRead_take _ _ _ _ h

/-! ### The obligations -/

/-- Settles O56, by the header of each packet the finite-state machine builds. -/
theorem segmentPacketHeaders : Obligations.SegmentPacketHeaders := by
  intro s t hwf h herr
  obtain ⟨rfl, hfits⟩ := eq_segmentedState_of_exec h herr
  have hsize : s.params.outSize ≤ 0x40000 := by
    simp only [Params.wf, Bool.and_eq_true, decide_eq_true_eq] at hwf
    omega
  refine ⟨segmentedState_outLen (by omega), fun j hj => ?_⟩
  rw [packetAt_segmentedState hj]
  obtain ⟨hsync, hhdr⟩ := segment_packet_header s.segCtx s.tsh.cc (j := j) (by rwa [segCtx_payload_length])
  rw [segCtx_payload_length] at hhdr
  rw [hhdr]
  exact ⟨hsync, rfl, rfl, rfl, rfl, rfl, rfl, rfl⟩

/-- Settles O57, by joining the payload regions of the first, the middle and the trailing packets. -/
theorem segmentReconstructsPayload : Obligations.SegmentReconstructsPayload := by
  intro s t h herr
  obtain ⟨rfl, -⟩ := eq_segmentedState_of_exec h herr
  have hcount := segCtx_packetCount s
  have hpackets : (List.range (segCount s.inLen.toNat s.pcrV)).map (fun j => packetAt j (segmentedState s)) =
      (segment s.segCtx s.tsh.cc).out := by
    refine List.ext_getElem (by simp [hcount]) fun j _ hj => ?_
    rw [List.getElem_map, List.getElem_range, packetAt_segmentedState (hcount ▸ hj), List.getD_eq_getElem _ _ hj]
  calc reassembled (segCount s.inLen.toNat s.pcrV) (segmentedState s)
      = (segment s.segCtx s.tsh.cc).out.flatMap payloadRegion := by
        rw [← hpackets, List.flatMap_map]
        rfl
    _ = s.segCtx.payload := segment_reconstructs _ _

/-- Settles O58, row by row of the table of R323. -/
theorem firstPacketLayout : Obligations.FirstPacketLayout := by
  intro s t h herr len pkt af
  obtain ⟨rfl, -⟩ := eq_segmentedState_of_exec h herr
  have hcount : 0 < segCount s.inLen.toNat s.pcrV := by unfold segCount; dsimp only; omega
  have hpkt : pkt = segFirstPacket s.segCtx s.tsh.cc := (packetAt_segmentedState hcount).trans (segment_out_first _ _)
  have hlen : s.segCtx.payload.length = len := segCtx_payload_length s
  simp only [af, hpkt]
  refine ⟨?_, fun hpcr hge => ?_, fun hpcr hlt => ?_, fun hpcr hge => ?_, fun hpcr hle => ?_, fun hpcr heq => ?_⟩
  · obtain ⟨-, hhdr⟩ := segment_packet_header s.segCtx s.tsh.cc (j := 0) (by rwa [hlen])
    rw [segment_out_first] at hhdr
    rw [hhdr]
    rfl
  · obtain ⟨haf, halen, hflags, hbytes, -, hregion⟩ := segFirstPacket_pcr (c := s.segCtx) s.tsh.cc hpcr
    rw [hlen] at halen hregion
    rw [min_eq_right hge, segCtx_payload_take hge] at hregion
    rw [Nat.sub_eq_zero_of_le hge] at halen
    exact ⟨haf, halen, hflags, hbytes, hregion⟩
  · have hspec := segFirstPacket_pcr (c := s.segCtx) s.tsh.cc hpcr
    rw [hlen, min_eq_left (by omega), segCtx_payload_take le_rfl] at hspec
    exact hspec
  · have hspec := segFirstPacket_full (c := s.segCtx) s.tsh.cc hpcr (by omega)
    rw [segCtx_payload_take hge] at hspec
    exact hspec
  · have hspec := segFirstPacket_short (c := s.segCtx) s.tsh.cc hpcr (by omega)
    rw [hlen, min_eq_left hle, segCtx_payload_take le_rfl] at hspec
    exact hspec
  · obtain ⟨haf, halen, hflags, -, hregion⟩ := segFirstPacket_short (c := s.segCtx) s.tsh.cc hpcr (by omega)
    rw [hlen, heq] at halen hregion
    rw [segCtx_payload_take (by omega)] at hregion
    exact ⟨haf, halen, hflags, hregion⟩

/-- Settles O59, by the packets' numbers and the three kinds of remainder. -/
theorem middleAndTrailingPackets : Obligations.MiddleAndTrailingPackets := by
  intro s t h herr len w mid r
  obtain ⟨rfl, -⟩ := eq_segmentedState_of_exec h herr
  have hlen : s.inLen.toNat = len := rfl
  have hw : segFirstCount s.segCtx = w := by rw [segFirstCount_eq, segCtx_payload_length]; rfl
  have hmid : segMiddleCount s.segCtx = mid := by rw [segMiddleCount, segCtx_payload_length, hw]
  have hr : segRemainder s.segCtx = r := by rw [segRemainder, segCtx_payload_length, hw]
  clear_value r mid w len
  have hcount : segCount len s.pcrV = 1 + mid + segTrailingCount r := by
    rw [← hlen, ← hmid, ← hr, ← segCount_eq, segCtx_payload_length]
    rfl
  obtain ⟨hsum, -⟩ := middle_remainder s.segCtx
  rw [hw, hmid, hr, segCtx_payload_length, hlen] at hsum
  have htrail : ∀ i, i < segTrailingCount r → packetAt (1 + mid + i) (segmentedState s) =
      (segTrailing s.segCtx (segFirstNextCc s.segCtx s.tsh.cc + BitVec.ofNat 4 mid) r).getD i [] := fun i hi => by
    rw [packetAt_segmentedState (by rw [hlen]; omega), ← hmid, segment_out_trailing, hr]
  rw [segmentedState_pktCount, hlen]
  refine ⟨fun j h1 hj => ?_, fun h0 => ?_, fun h183 => ?_, fun h1 h182 => ?_⟩
  · obtain ⟨i, rfl⟩ := Nat.exists_eq_add_of_le h1
    rw [packetAt_segmentedState (by rw [hlen]; omega), segment_out_middle _ _ (by omega), payloadRegion_segMiddlePacket, hw,
      segCtx_payload_part (by omega), Nat.add_sub_cancel_left, Nat.add_assoc]
    exact ⟨segMiddlePacket_af _ _ _ _, rfl⟩
  · rw [hcount, h0]
    rfl
  · subst h183
    have hA := htrail 0 (by decide)
    have hB := htrail 1 (by decide)
    rw [show 1 + mid + 1 = 2 + mid by omega] at hB
    simp only [segTrailing_split, segCtx_payload_length, hlen, List.getD_cons_zero, List.getD_cons_succ,
      Nat.add_zero] at hA hB
    have hone : memRead (inBase + (len - 1)) 1 s = [s.byteAt (inBase + len - 1)] := by
      rw [memRead_succ, Nat.add_sub_assoc (by omega)]
      rfl
    obtain ⟨haf, halen, hflags, -⟩ := segTrailingPacket_af s.segCtx
      (segFirstNextCc s.segCtx s.tsh.cc + BitVec.ofNat 4 mid) (len - 183) (n := 182) (by omega) (by omega)
    obtain ⟨haf', halen', hflags', hstuff'⟩ := segTrailingPacket_af s.segCtx
      (segFirstNextCc s.segCtx s.tsh.cc + BitVec.ofNat 4 mid + 1) (len - 1) (n := 1) (by omega) (by omega)
    rw [hA, hB, payloadRegion_segTrailingPacket _ _ _ (by omega) (by omega),
      payloadRegion_segTrailingPacket _ _ _ (by omega) (by omega), segCtx_payload_part (by omega),
      segCtx_payload_part (by omega), hone, Nat.add_sub_assoc (by omega)]
    refine ⟨?_, haf, halen, hflags, rfl, haf', halen', hflags', hstuff', rfl⟩
    rw [hcount, show segTrailingCount 183 = 2 from rfl]
    omega
  · have htc := segTrailingCount_short h1 h182
    have hA := htrail 0 (by omega)
    rw [segTrailing_short _ _ h1 h182, segCtx_payload_length, hlen, List.getD_cons_zero, Nat.add_zero] at hA
    obtain ⟨haf, halen, hflags, hstuff⟩ := segTrailingPacket_af s.segCtx
      (segFirstNextCc s.segCtx s.tsh.cc + BitVec.ofNat 4 mid) (len - r) h1 h182
    rw [hA, payloadRegion_segTrailingPacket _ _ _ h1 h182, segCtx_payload_part (by omega), Nat.add_sub_assoc (by omega)]
    exact ⟨by omega, haf, halen, hflags, hstuff, rfl⟩

/-- Settles O60, by the closed form of the count and the sizes that conforming parameters have. -/
theorem bufferOverflowIsUnreachable : Obligations.BufferOverflowIsUnreachable := by
  refine ⟨fun _ pcr h => segCount_le_713 pcr h, by decide, by decide, segCount_le, fun s t h hin => ?_, fun s t hwf h => ?_⟩
  · rw [eq_tsSegment_of_exec h]
    exact tsSegment_bufferOverflow_iff hin
  · obtain rfl := eq_tsSegment_of_exec h
    by_cases hin : s.inLen.toNat ≤ s.params.inSize
    · rw [Ne, tsSegment_bufferOverflow_iff hin]
      have hle := segCount_le s.inLen.toNat s.pcrV
      simp only [Params.wf, Bool.and_eq_true, decide_eq_true_eq] at hwf
      omega
    · rw [tsSegment_eq, if_pos (Nat.not_le.1 hin), raise_err]
      decide

end Sys2Proof.Machine
end

section
/-! SUPPORT. The TS packet codec (R370 to R414): the bytes of the header and the PCR as numbers, `Fill` by its cases, and
the branches of TS_HDR_DEC, TS_PKT_ENC and TS_PKT_DEC. The theorems settle O47, O48, O49, O50, O51, O52 and O53. -/

namespace Sys2Proof.Machine

/-! ### TS_HDR_ENC and TS_HDR_DEC (R380, R383) -/

/-- The header bytes are the bytes of the register TSH, most significant first (R371). -/
theorem tsHdrBytes_eq_word_bytes (h : TsHeader) : tsHdrBytes h =
    [h.word.extractLsb' 24 8, h.word.extractLsb' 16 8, h.word.extractLsb' 8 8, h.word.extractLsb' 0 8] := by
  have hbytes : tsHdrBytes h = [(tsHdrBytes h).getD 0 0, (tsHdrBytes h).getD 1 0, (tsHdrBytes h).getD 2 0,
      (tsHdrBytes h).getD 3 0] := rfl
  rw [hbytes, tsHdrBytes_byte h 0 (by decide), tsHdrBytes_byte h 1 (by decide), tsHdrBytes_byte h 2 (by decide),
    tsHdrBytes_byte h 3 (by decide)]

/-- Settles O47: TS_HDR_ENC has no test. -/
theorem tsHdrEncEmitsTsh : Obligations.TsHdrEncEmitsTsh := by
  intro s
  have hspec := complete_emit_spec (tsHdrBytes s.tsh) s
  rw [tsHdrBytes_eq_word_bytes] at hspec
  refine ⟨_, rfl, ?_⟩
  rw [tsHdrEnc, tsHdrBytes_eq_word_bytes]
  exact hspec

/-- The header fields that stand in the first four bytes of IN_BUF (R372). -/
def inputHeader (s : State) : TsHeader :=
  tsHdrOfBytes (s.byteAt (inBase + 1)) (s.byteAt (inBase + 2)) (s.byteAt (inBase + 3))

/-- After a sync byte, TSH as a number is the four header bytes (R62, R372). -/
theorem inputHeader_word_toNat {s : State} (hsync : s.byteAt inBase = syncByte) :
    (inputHeader s).word.toNat = beValue (memRead inBase 4 s) := by
  have hbytes : memRead inBase 4 s =
      [s.byteAt inBase, s.byteAt (inBase + 1), s.byteAt (inBase + 2), s.byteAt (inBase + 3)] := rfl
  rw [hbytes, hsync, inputHeader, tsHdrOfBytes_word]
  simp only [append_toNat, beValue, List.foldl_cons, List.foldl_nil, Nat.zero_mul, Nat.zero_add]
  rfl

/-- TS_HDR_DEC by its tests. -/
theorem tsHdrDec_eq (s : State) : tsHdrDec s =
    if s.params.inSize < s.inLen.toNat then raise .invalidOperand s
    else if s.inLen.toNat < 4 ∨ s.byteAt inBase ≠ syncByte then
      raise .malformedInput { s with tsh := TsHeader.default }
    else complete .ok { s with tsh := inputHeader s, outLen := 0 } := by
  simp only [tsHdrDec, inLenTooLarge_iff]
  refine if_congr Iff.rfl rfl ?_
  by_cases hshort : s.inLen.toNat < 4
  · rw [if_pos (.inl hshort)]
    split
    · rename_i hinput
      have hlen := input_length s
      rw [hinput] at hlen
      simp only [List.length_cons] at hlen
      omega
    · rfl
  · obtain ⟨k, hk⟩ : ∃ k, s.inLen.toNat = k + 4 := ⟨s.inLen.toNat - 4, by omega⟩
    rw [State.input, State.inCount, hk]
    simp only [memRead_succ, or_iff_right (show ¬k + 4 < 4 by omega), ite_not, Nat.add_assoc, Nat.reduceAdd]
    rfl

/-- Settles O48, by the branches of TS_HDR_DEC. -/
theorem tsHdrDecReadsTsh : Obligations.TsHdrDecReadsTsh := by
  intro s
  refine ⟨tsHdrDec s, rfl, ?_⟩
  rw [tsHdrDec_eq]
  have hsync : syncByte = 0x47 := rfl
  rw [hsync]
  split_ifs with hlarge hbad
  · exact raise_eq .invalidOperand s
  · exact raise_eq .malformedInput _
  · exact ⟨rfl, inputHeader_word_toNat (not_not.1 (not_or.1 hbad).2)⟩

/-! ### PCR_ENC (R386) -/

/-- A big-endian number by the values of its bytes. -/
theorem beValue_eq_foldl_toNat (bs : List Byte) :
    beValue bs = (bs.map BitVec.toNat).foldl (fun acc n => acc * 256 + n) 0 := by
  rw [List.foldl_map]
  rfl

/-- The six PCR bytes as one 48-bit number (R375). -/
theorem beValue_pcrBytes (base : BitVec 33) (ext : BitVec 9) :
    beValue (pcrBytes base ext) = base.toNat * 2 ^ 15 + 63 * 2 ^ 9 + ext.toNat := by
  rw [beValue_eq_foldl_toNat, pcrBytes_toNat]
  simp only [List.foldl_cons, List.foldl_nil]
  omega

/-- The PCR base by its two registers (R66). -/
theorem pcrBase_toNat (s : State) : s.pcrBase.toNat = s.pcrBaseHi.toNat * 2 ^ 32 + s.pcrBaseLo.toNat :=
  append_toNat _ _

/-- Settles O49: PCR_ENC has no test. -/
theorem pcrEncEmitsPcr : Obligations.PcrEncEmitsPcr := by
  intro s
  obtain ⟨hregs, -, hframe⟩ := complete_emit_spec (pcrBytes s.pcrBase s.pcrExt) s
  refine ⟨pcrEnc s, rfl, hregs, ?_, hframe⟩
  have hout : memRead outBase 6 (pcrEnc s) = pcrBytes s.pcrBase s.pcrExt := memRead_complete_emit _ s
  rw [hout, beValue_pcrBytes, pcrBase_toNat]

/-! ### `Fill` by its cases (R390, R392, R394) -/

/-- The flags byte that counts is 0 where there is no field (R390). -/
theorem afOverhead_effective (af : Bool) (fl : Byte) : afOverhead af (if af then fl else 0x00) = afOverhead af fl := by
  cases af <;> rfl

/-- Enough data: the packet has no room to fill. -/
theorem fill_full {n : Nat} (useAF : Bool) {af0 : Bool} {fl0 : Byte} (h : 184 - afOverhead af0 fl0 ≤ n) :
    fill n useAF af0 fl0 = .of (184 - afOverhead af0 fl0) af0 (if af0 then fl0 else 0x00) 0 0 := by
  simp only [fill, afOverhead_effective, if_pos h]

/-- Too little data, without USE_AF: the payload is padded. -/
theorem fill_padded {n : Nat} {af0 : Bool} {fl0 : Byte} (h : n < 184 - afOverhead af0 fl0) :
    fill n false af0 fl0 = .of n af0 (if af0 then fl0 else 0x00) 0 (184 - afOverhead af0 fl0 - n) := by
  simp only [fill, afOverhead_effective, if_neg (Nat.not_le.2 h), Bool.false_and, Bool.false_eq_true, if_false]

/-- Too little data and a field that is there: it is stuffed. -/
theorem fill_stuffed {n : Nat} {fl0 : Byte} (h : n < 184 - afOverhead true fl0) :
    fill n true true fl0 = .of n true fl0 (184 - afOverhead true fl0 - n) 0 := by
  simp only [fill, if_true, if_neg (Nat.not_le.2 h), Bool.and_self]

/-- Too little data and no field: one is made. -/
theorem fill_created {n : Nat} (fl0 : Byte) (h : n ≤ 182) : fill n true false fl0 = .of n true 0x00 (182 - n) 0 := by
  have hroom : ¬184 - afOverhead false 0x00 ≤ n := Nat.not_le.2 (lt_of_le_of_lt h (by decide))
  simp only [fill, Bool.false_eq_true, if_false, if_neg hroom, Bool.and_false, Bool.true_and, decide_eq_true h, if_true]

/-- One byte short of a packet, and no field is that small: a field without stuffing pushes the last byte out (R392). -/
theorem fill_183 (fl0 : Byte) : fill 183 true false fl0 = .of 182 true 0x00 0 0 := rfl

/-- The bytes of a field by the PCR flag: length, flags and, with the flag set, the PCR (R390). -/
theorem afOverhead_eq (af0 : Bool) (fl0 : Byte) :
    afOverhead af0 fl0 = if af0 then 2 + (if af0 && fl0.getLsbD 4 then 6 else 0) else 0 := by
  cases af0 with
  | false => rfl
  | true => exact (apply_ite (2 + ·) (fl0.getLsbD 4 = true) 6 0).symm

/-- Settles O50, case by case of `Fill`. -/
theorem fillMakesFullPackets : Obligations.FillMakesFullPackets := by
  intro n useAF af0 fl0 f pcr space
  have hoverhead : afOverhead af0 fl0 = if af0 then 2 + pcr else 0 := afOverhead_eq af0 fl0
  have hspace : 184 - afOverhead af0 fl0 = space := congrArg (184 - ·) hoverhead
  have hpcr : pcr ≤ 6 := by simp only [pcr]; split_ifs <;> decide
  have hpcr0 : af0 = false → pcr = 0 := by rintro rfl; rfl
  simp only [f]
  clear_value pcr
  by_cases hfull : space ≤ n
  · rw [fill_full useAF (hspace ▸ hfull), hspace]
    grind [Filled.of]
  · have hroom : n < 184 - afOverhead af0 fl0 := hspace ▸ Nat.not_le.1 hfull
    match useAF, af0 with
    | false, af0 =>
      rw [fill_padded hroom, hspace]
      grind [Filled.of]
    | true, true =>
      rw [fill_stuffed hroom, hspace]
      grind [Filled.of]
    | true, false =>
      by_cases h182 : n ≤ 182
      · rw [fill_created fl0 h182]
        grind [Filled.of]
      · obtain rfl : n = 183 := by omega
        rw [fill_183]
        grind [Filled.of]

/-! ### TS_PKT_ENC (R400) -/

/-- `Fill` of the input under the operands of TS_PKT_ENC (R390, R400). -/
def pktFilled (useAf : Bool) (s : State) : Filled := fill s.inLen.toNat useAf s.tsh.af s.afFlags

/-- The packet TS_PKT_ENC emits when neither of its tests fails (R396). -/
def encodedPacket (useAf : Bool) (s : State) : List Byte :=
  tsPacketBytes s.tsh (pktFilled useAf s) s.input s.pcrBase s.pcrExt

/-- The registers of R146 as `Fill` sets them, and the rest of `s` (R400). -/
def storeFilled (useAf : Bool) (s : State) : State :=
  { s with
    fillCount := BitVec.ofNat 32 (pktFilled useAf s).w
    tsh := { s.tsh with af := (pktFilled useAf s).af, pl := (pktFilled useAf s).pl } }

/-- The state after a TS_PKT_ENC that succeeds. -/
def encodedState (useAf : Bool) (s : State) : State :=
  complete .ok (emit (encodedPacket useAf s) (storeFilled useAf s))

/-- TS_PKT_ENC by its two tests. -/
theorem tsPktEnc_eq (useAf : Bool) (s : State) : tsPktEnc useAf s =
    if s.params.inSize < s.inLen.toNat ∨ (s.tsh.af = true ∧ s.afFlags.extractLsb' 0 4 ≠ 0) then
      raise .invalidOperand { s with fillCount := 0 }
    else encodedState useAf s := by
  simp only [tsPktEnc, inLenTooLarge_iff, ite_or]
  rfl

theorem encodedPacket_length (useAf : Bool) (s : State) : (encodedPacket useAf s).length = 188 :=
  tsPacketBytes_fill_length_of (input_length s) ..

/-- The data consumed is the first part of the input. -/
theorem input_take_pktFilled (useAf : Bool) (s : State) :
    s.input.take (pktFilled useAf s).w = memRead inBase (pktFilled useAf s).w s :=
  memRead_take _ _ _ _ (fill_w_le ..)

/-- The packet part by part: the bytes of TSH with AF and PL, the adaptation field, the data and the padding (R396). -/
theorem encodedPacket_eq (useAf : Bool) (s : State) :
    let f := pktFilled useAf s
    let h := TsHeader.word { s.tsh with af := f.af, pl := f.pl }
    encodedPacket useAf s =
      [h.extractLsb' 24 8, h.extractLsb' 16 8, h.extractLsb' 8 8, h.extractLsb' 0 8] ++
        afBytes f s.pcrBase s.pcrExt ++ memRead inBase f.w s ++ ffs f.pad := by
  intro f h
  rw [encodedPacket, tsPacketBytes, tsHdrBytes_eq_word_bytes, input_take_pktFilled]

/-- The fields TS_PKT_ENC writes, and the packet in OUT_BUF (R400). -/
theorem encodedState_spec (useAf : Bool) (s : State) :
    encodedState useAf s = { storeFilled useAf s with
      mem := (encodedState useAf s).mem, outLen := 188, err := 0, busy := false, done := true } ∧
    StoresAt s (encodedState useAf s) outBase (encodedPacket useAf s) := by
  have hspec := complete_emit_spec (encodedPacket useAf s) (storeFilled useAf s)
  rw [encodedPacket_length] at hspec
  exact hspec

/-- Settles O51, by the two tests of TS_PKT_ENC. -/
theorem tsPktEncEmitsPacket : Obligations.TsPktEncEmitsPacket := by
  intro s useAf
  refine ⟨tsPktEnc useAf s, rfl, ?_⟩
  rw [tsPktEnc_eq]
  split_ifs
  · exact raise_eq .invalidOperand _
  · obtain ⟨hregs, hbytes⟩ := encodedState_spec useAf s
    rw [encodedPacket_eq] at hbytes
    exact ⟨hregs, hbytes⟩

/-! ### TS_PKT_DEC (R410) -/

/-- The length of the adaptation field of a packet, 0 without one (R410). -/
def decodedAfLen (pkt : List Byte) : Nat := if (packetHeader pkt).af then (pkt.getD 4 0).toNat else 0

/-- The flags byte of a packet, 0 where its field has none (R410). -/
def decodedFlags (pkt : List Byte) : Byte :=
  if (packetHeader pkt).af = true ∧ 1 ≤ decodedAfLen pkt then pkt.getD 5 0 else 0

/-- A field that is not empty is there. -/
theorem decodedFlags_eq (pkt : List Byte) : decodedFlags pkt = if 1 ≤ decodedAfLen pkt then pkt.getD 5 0 else 0 := by
  refine if_congr (and_iff_right_of_imp fun h => ?_) rfl rfl
  by_contra haf
  rw [decodedAfLen, if_neg haf] at h
  omega

/-- The packet has a PCR to decode: the flag is set and the field can hold it (R412). -/
def decodesPcr (pkt : List Byte) : Bool := decide (7 ≤ decodedAfLen pkt) && pcrFlag (decodedFlags pkt)

/-- The base of the PCR of a packet, 0 without one (R412). -/
def decodedPcrBase (pkt : List Byte) : BitVec 33 :=
  if decodesPcr pkt then
    pcrBaseOf (pkt.getD 6 0) (pkt.getD 7 0) (pkt.getD 8 0) (pkt.getD 9 0) (pkt.getD 10 0)
  else 0

/-- The extension of the PCR of a packet, 0 without one (R412). -/
def decodedPcrExt (pkt : List Byte) : BitVec 9 :=
  if decodesPcr pkt then pcrExtOf (pkt.getD 10 0) (pkt.getD 11 0) else 0

/-- The registers of R146 with the structure decoded from `pkt`, and the rest of `s` (R410). -/
def storeDecoded (pkt : List Byte) (s : State) : State :=
  { s with
    tsh := packetHeader pkt
    afLen := BitVec.ofNat 8 (decodedAfLen pkt)
    afFlags := decodedFlags pkt
    pcrV := decodesPcr pkt
    pcrBaseHi := (decodedPcrBase pkt).extractLsb' 32 1
    pcrBaseLo := (decodedPcrBase pkt).extractLsb' 0 32
    pcrExt := decodedPcrExt pkt }

/-- The state TS_PKT_DEC leaves when it decodes the packet `pkt` (R410, R413). -/
def decodedState (pkt : List Byte) (s : State) : State :=
  complete .ok (emit (payloadRegion pkt) (storeDecoded pkt s))

/-- The payload region begins after the header and the field (R413). -/
theorem payloadRegion_eq (pkt : List Byte) : payloadRegion pkt =
    if (packetHeader pkt).pl then pkt.drop (if (packetHeader pkt).af then 5 + decodedAfLen pkt else 4) else [] := by
  simp only [payloadRegion, decodedAfLen]
  cases (packetHeader pkt).af <;> rfl

/-- The packet in IN_BUF (R410). -/
def inputPacket (s : State) : List Byte := memRead inBase 188 s

theorem inputPacket_getD (s : State) {k : Nat} (hk : k < 188) : (inputPacket s).getD k 0 = s.byteAt (inBase + k) :=
  memRead_getD _ _ _ _ hk

theorem packetHeader_inputPacket (s : State) : packetHeader (inputPacket s) = inputHeader s := by
  rw [packetHeader, inputPacket_getD s (by decide), inputPacket_getD s (by decide), inputPacket_getD s (by decide)]
  rfl

/-- Its payload region is the part of IN_BUF from the end of the field to byte 187, when PL is set (R413). -/
theorem payloadRegion_inputPacket (s : State) :
    let off := if (inputHeader s).af then 5 + decodedAfLen (inputPacket s) else 4
    payloadRegion (inputPacket s) = memRead (inBase + off) (if (inputHeader s).pl then 188 - off else 0) s := by
  intro off
  rw [payloadRegion_eq, packetHeader_inputPacket]
  by_cases hpl : (inputHeader s).pl = true
  · rw [if_pos hpl, if_pos hpl]
    exact memRead_drop ..
  · rw [if_neg hpl, if_neg hpl]
    rfl

/-- TS_PKT_DEC by its tests: it reads the first 188 bytes of the input (R410, R411). -/
theorem tsPktDec_eq (s : State) : tsPktDec s =
    if s.params.inSize < s.inLen.toNat then raise .invalidOperand s
    else if s.inLen.toNat < 188 ∨ (inputPacket s).getD 0 0 ≠ syncByte then tsPktDecFail s
    else if 183 < decodedAfLen (inputPacket s) then tsPktDecFail s
    else decodedState (inputPacket s) s := by
  rw [tsPktDec]
  refine if_congr (inLenTooLarge_iff s) rfl ?_
  by_cases hshort : s.inLen.toNat < 188
  · rw [if_pos (Or.inl hshort)]
    exact if_pos (Or.inl hshort)
  · have hmin : min s.inCount 188 = 188 := min_eq_right (Nat.not_lt.1 hshort)
    rw [hmin, inputPacket, decodedState, payloadRegion_eq]
    rfl

/-- TS_PKT_DEC of an input that holds no packet it can decode (R411). -/
theorem tsPktDec_of_malformed {s : State} (hlen : s.inLen.toNat ≤ s.params.inSize)
    (h : s.inLen.toNat < 188 ∨ (inputPacket s).getD 0 0 ≠ syncByte ∨
      183 < decodedAfLen (inputPacket s)) : tsPktDec s = tsPktDecFail s := by
  rw [tsPktDec_eq, if_neg (Nat.not_lt.2 hlen), ← ite_or, if_pos (or_assoc.2 h)]

/-- TS_PKT_DEC of an input that begins with a packet (R410). -/
theorem tsPktDec_of_packet {s : State} (hlen : s.inLen.toNat ≤ s.params.inSize) (hfull : 188 ≤ s.inLen.toNat)
    (hsync : (inputPacket s).getD 0 0 = syncByte) (hafLen : decodedAfLen (inputPacket s) ≤ 183) :
    tsPktDec s = decodedState (inputPacket s) s := by
  rw [tsPktDec_eq, if_neg (Nat.not_lt.2 hlen), if_neg (not_or.2 ⟨Nat.not_lt.2 hfull, not_not.2 hsync⟩),
    if_neg (Nat.not_lt.2 hafLen)]

/-- The PCR base of a packet as a number (R376). -/
theorem decodedPcrBase_toNat (pkt : List Byte) : (decodedPcrBase pkt).toNat =
    if decodesPcr pkt then (pkt.getD 6 0).toNat * 2 ^ 25 + (pkt.getD 7 0).toNat * 2 ^ 17 +
      (pkt.getD 8 0).toNat * 2 ^ 9 + (pkt.getD 9 0).toNat * 2 + (pkt.getD 10 0).toNat / 128 else 0 := by
  have hlast := (pkt.getD 10 0).isLt
  rw [decodedPcrBase, apply_ite BitVec.toNat]
  refine if_congr Iff.rfl ?_ rfl
  simp only [pcrBaseOf, append_toNat, extract_toNat]
  omega

/-- The PCR extension of a packet as a number (R376). -/
theorem decodedPcrExt_toNat (pkt : List Byte) : (decodedPcrExt pkt).toNat =
    if decodesPcr pkt then (pkt.getD 10 0).toNat % 2 * 256 + (pkt.getD 11 0).toNat else 0 := by
  rw [decodedPcrExt, apply_ite BitVec.toNat]
  refine if_congr Iff.rfl ?_ rfl
  simp only [pcrExtOf, append_toNat, extract_toNat]
  omega

/-- The two registers of the PCR base hold it (R66). -/
theorem pcrBase_of_registers {s : State} {base : BitVec 33} (hhi : s.pcrBaseHi = base.extractLsb' 32 1)
    (hlo : s.pcrBaseLo = base.extractLsb' 0 32) : s.pcrBase = base := by
  have hbase := base.isLt
  refine BitVec.eq_of_toNat_eq ?_
  rw [pcrBase_toNat, hhi, hlo, extract_toNat, extract_toNat]
  omega

@[simp] theorem decodedState_pcrBase (pkt : List Byte) (s : State) :
    (decodedState pkt s).pcrBase = decodedPcrBase pkt := pcrBase_of_registers rfl rfl

@[simp] theorem decodedState_pcrExt (pkt : List Byte) (s : State) :
    (decodedState pkt s).pcrExt = decodedPcrExt pkt := rfl

/-- The fields TS_PKT_DEC writes, and the payload region in OUT_BUF (R413). -/
theorem decodedState_spec (pkt : List Byte) (s : State) :
    decodedState pkt s = { storeDecoded pkt s with
      mem := (decodedState pkt s).mem
      outLen := BitVec.ofNat 32 (payloadRegion pkt).length, err := 0, busy := false, done := true } ∧
    StoresAt s (decodedState pkt s) outBase (payloadRegion pkt) :=
  complete_emit_spec (payloadRegion pkt) (storeDecoded pkt s)

/-- Settles O52, by the branches of TS_PKT_DEC. -/
theorem tsPktDecReadsPacket : Obligations.TsPktDecReadsPacket := by
  intro s
  refine ⟨tsPktDec s, rfl, ?_⟩
  intro b af alen fl hasPcr off size
  have hget : ∀ k, k < 188 → (inputPacket s).getD k 0 = b k := fun _ hk => inputPacket_getD s hk
  have halen : decodedAfLen (inputPacket s) = alen := by
    rw [decodedAfLen, packetHeader_inputPacket, hget 4 (by decide)]
    rfl
  have hfl : decodedFlags (inputPacket s) = fl := by rw [decodedFlags_eq, halen, hget 5 (by decide)]
  have hpcr : decodesPcr (inputPacket s) = hasPcr := by
    rw [decodesPcr, halen, hfl]
    rfl
  have hregion : payloadRegion (inputPacket s) = memRead (inBase + off) size s := by
    rw [payloadRegion_inputPacket, halen]
    rfl
  by_cases hlarge : s.params.inSize < s.inLen.toNat
  · rw [if_pos hlarge, tsPktDec_eq, if_pos hlarge]
    exact raise_eq .invalidOperand s
  rw [if_neg hlarge]
  by_cases hbad : s.inLen.toNat < 188 ∨ b 0 ≠ 0x47 ∨ 183 < alen
  · rw [if_pos hbad, tsPktDec_of_malformed (Nat.not_lt.1 hlarge) (halen ▸ hget 0 (by decide) ▸ hbad)]
    exact raise_eq .malformedInput _
  rw [if_neg hbad]
  simp only [not_or, not_lt, ne_eq, not_not] at hbad
  obtain ⟨hfull, hsync, hafLen⟩ := hbad
  rw [tsPktDec_of_packet (Nat.not_lt.1 hlarge) hfull ((hget 0 (by decide)).trans hsync) (halen.trans_le hafLen)]
  obtain ⟨hregs, hbytes⟩ := decodedState_spec (inputPacket s) s
  rw [hregion] at hbytes hregs
  rw [memRead_length] at hregs
  refine ⟨?_, ?_, ?_, ?_, hbytes⟩
  · rw [← halen, ← hfl, ← hpcr]
    exact hregs
  · rw [← inputHeader_word_toNat hsync, ← packetHeader_inputPacket]
    rfl
  · rw [decodedState_pcrBase, decodedPcrBase_toNat, hpcr, hget 6 (by decide), hget 7 (by decide),
      hget 8 (by decide), hget 9 (by decide), hget 10 (by decide)]
  · rw [decodedState_pcrExt, decodedPcrExt_toNat, hpcr, hget 10 (by decide), hget 11 (by decide)]

/-! ### Decoding what TS_PKT_ENC made (R414) -/

/-- The length byte is read back when it fits its byte (R395). -/
theorem decodedAfLen_tsPacketBytes (h : TsHeader) {f : Filled} (data : List Byte) (base : BitVec 33) (ext : BitVec 9)
    (hle : computeAfLen f ≤ 183) :
    decodedAfLen (tsPacketBytes h f data base ext) = if f.af then computeAfLen f else 0 := by
  rw [decodedAfLen, (packetHeader_tsPacketBytes h f data base ext).2]
  by_cases ha : f.af = true
  · obtain ⟨hlen, -, -⟩ := af_tsPacketBytes h f data base ext ha
    rw [if_pos ha, if_pos ha, hlen, ofNat_toNat_of_lt (by omega)]
  · rw [if_neg ha, if_neg ha]

theorem decodedFlags_tsPacketBytes (h : TsHeader) {f : Filled} (data : List Byte) (base : BitVec 33) (ext : BitVec 9)
    (hle : computeAfLen f ≤ 183) : decodedFlags (tsPacketBytes h f data base ext) = if f.af then f.fl else 0 := by
  rw [decodedFlags_eq, decodedAfLen_tsPacketBytes h data base ext hle]
  by_cases ha : f.af = true
  · obtain ⟨-, hflags, -⟩ := af_tsPacketBytes h f data base ext ha
    have hpos : 1 ≤ computeAfLen f := by unfold computeAfLen; omega
    rw [if_pos ha, if_pos hpos, hflags, if_pos ha]
  · rw [if_neg ha, if_neg ha]
    rfl

/-- A field with the PCR flag is long enough for the PCR. -/
theorem decodesPcr_tsPacketBytes (h : TsHeader) {f : Filled} (data : List Byte) (base : BitVec 33) (ext : BitVec 9)
    (hle : computeAfLen f ≤ 183) : decodesPcr (tsPacketBytes h f data base ext) = (f.af && pcrFlag f.fl) := by
  rw [decodesPcr, decodedFlags_tsPacketBytes h data base ext hle, decodedAfLen_tsPacketBytes h data base ext hle]
  by_cases ha : f.af = true
  · rw [if_pos ha, if_pos ha, ha, Bool.true_and]
    by_cases hp : pcrFlag f.fl = true
    · have hlong : 7 ≤ computeAfLen f := by rw [computeAfLen, if_pos hp]; omega
      rw [decide_eq_true hlong, Bool.true_and]
    · rw [Bool.not_eq_true] at hp
      rw [hp, Bool.and_false]
  · rw [Bool.not_eq_true] at ha
    rw [ha]
    rfl

/-- The PCR is read back (R375, R376). -/
theorem decodedPcr_tsPacketBytes (h : TsHeader) {f : Filled} (data : List Byte) (base : BitVec 33) (ext : BitVec 9)
    (hle : computeAfLen f ≤ 183) (hdec : decodesPcr (tsPacketBytes h f data base ext) = true) :
    decodedPcrBase (tsPacketBytes h f data base ext) = base ∧ decodedPcrExt (tsPacketBytes h f data base ext) = ext := by
  obtain ⟨ha, hp⟩ := (Bool.and_eq_true _ _).mp ((decodesPcr_tsPacketBytes h data base ext hle).symm.trans hdec)
  obtain ⟨b0, b1, b2, b3, b4, b5, hbytes, hbase, hext⟩ := pcrOf_pcrBytes base ext
  obtain ⟨-, -, hdrop⟩ := af_tsPacketBytes h f data base ext ha
  rw [if_pos hp, hbytes] at hdrop
  have hget : ∀ k, (tsPacketBytes h f data base ext).getD (6 + k) 0 =
      ((tsPacketBytes h f data base ext).drop 6).getD k 0 := fun k => by
    simp only [List.getD_eq_getElem?_getD, List.getElem?_drop]
  rw [decodedPcrBase, decodedPcrExt, if_pos hdec, if_pos hdec, hget 0, hget 1, hget 2, hget 3, hget 4, hget 5, hdrop]
  exact ⟨hbase, hext⟩

/-- The flags byte emitted, and whether a PCR is (R392, R414). -/
theorem pktFilled_flags (useAf : Bool) (s : State) :
    (if (pktFilled useAf s).af then (pktFilled useAf s).fl else 0) = (if s.tsh.af then s.afFlags else 0) ∧
      ((pktFilled useAf s).af && pcrFlag (pktFilled useAf s).fl) = (s.tsh.af && pcrFlag s.afFlags) := by
  obtain ⟨-, -, -, -, -, -, -, -, hfield, hnone, -⟩ := fillMakesFullPackets s.inLen.toNat useAf s.tsh.af s.afFlags
  by_cases ha : s.tsh.af = true
  · obtain ⟨haf, hfl⟩ := hfield ha
    rw [pktFilled, haf, hfl, ha]
    exact ⟨rfl, rfl⟩
  · rw [Bool.not_eq_true] at ha
    rw [pktFilled, hnone ha, ha]
    exact ⟨ite_self _, Bool.and_false _⟩

/-- Data and padding fit the 184 bytes after the header (R391). -/
theorem pktFilled_w_add_pad_le (useAf : Bool) (s : State) : (pktFilled useAf s).w + (pktFilled useAf s).pad ≤ 184 := by
  obtain ⟨hsum, -⟩ := fillMakesFullPackets s.inLen.toNat useAf s.tsh.af s.afFlags
  rw [pktFilled]
  omega

/-- The payload region of the packet is the data consumed and the padding (R413). -/
theorem payloadRegion_encodedPacket (useAf : Bool) (s : State) : payloadRegion (encodedPacket useAf s) =
    memRead inBase (pktFilled useAf s).w s ++ ffs (pktFilled useAf s).pad := by
  have hregion := payloadRegion_tsPacketBytes s.tsh (pktFilled useAf s) s.input s.pcrBase s.pcrExt (fill_pl ..)
    fun _ => computeAfLen_fill_le ..
  rw [input_take_pktFilled] at hregion
  exact hregion

/-- A TS_PKT_ENC without an error made its packet. -/
theorem eq_encodedState_of_exec {useAf : Bool} {s t : State} (h : exec (.tsPktEnc useAf) s = .next t)
    (herr : t.err = 0) : t = encodedState useAf s := by
  obtain rfl : tsPktEnc useAf s = t := Host.Outcome.next.inj h
  rw [tsPktEnc_eq] at herr ⊢
  split_ifs at herr ⊢
  · rw [raise_err] at herr
    exact absurd herr (by decide)
  · rfl

/-- TS_PKT_DEC decodes a packet of TS_PKT_ENC, whatever the state it is loaded into held. -/
theorem tsPktDec_encodedPacket (useAf : Bool) (s : State) {s2 : State} (hwf : s2.params.wf = true) :
    tsPktDec (withInput (encodedPacket useAf s) s2) =
      decodedState (encodedPacket useAf s) (withInput (encodedPacket useAf s) s2) := by
  have hin : 65541 ≤ s2.params.inSize := by
    simp only [Params.wf, Bool.and_eq_true, decide_eq_true_eq] at hwf
    omega
  have hlen := encodedPacket_length useAf s
  have hinLen := withInput_inLen s2 (bs := encodedPacket useAf s) (by omega)
  have hread : inputPacket (withInput (encodedPacket useAf s) s2) = encodedPacket useAf s := by
    rw [inputPacket, ← hlen]
    exact memRead_memWrite s2 inBase (encodedPacket useAf s)
  have hle : computeAfLen (pktFilled useAf s) ≤ 183 := computeAfLen_fill_le ..
  rw [tsPktDec_of_packet (by rw [hinLen, hlen, withInput_params]; omega) (by rw [hinLen, hlen]), hread]
  · rw [hread]
    exact (packetHeader_tsPacketBytes ..).1
  · rw [hread, encodedPacket, decodedAfLen_tsPacketBytes _ _ _ _ hle]
    split_ifs <;> omega

theorem memRead_encodedState (useAf : Bool) (s : State) :
    memRead outBase 188 (encodedState useAf s) = encodedPacket useAf s := by
  rw [← encodedPacket_length useAf s]
  exact memRead_complete_emit _ _

theorem encodedState_fillCount (useAf : Bool) (s : State) :
    (encodedState useAf s).fillCount.toNat = (pktFilled useAf s).w := by
  have hfit := pktFilled_w_add_pad_le useAf s
  exact ofNat_toNat_of_lt (show (pktFilled useAf s).w < 2 ^ 32 by omega)

/-- The payload region of a decoded packet is in OUT_BUF, OUT_LEN bytes long (R413). -/
theorem decodedState_output {pkt : List Byte} (s : State) (h : (payloadRegion pkt).length < 2 ^ 32) :
    (decodedState pkt s).outLen.toNat = (payloadRegion pkt).length ∧
      memRead outBase (decodedState pkt s).outLen.toNat (decodedState pkt s) = payloadRegion pkt := by
  have hlen : (decodedState pkt s).outLen.toNat = (payloadRegion pkt).length := ofNat_toNat_of_lt h
  rw [hlen]
  exact ⟨rfl, memRead_complete_emit _ _⟩

/-- Settles O53: each part of the packet is read back by the part of TS_PKT_DEC that decodes it. -/
theorem tsPacketRoundTrip : Obligations.TsPacketRoundTrip := by
  intro s t s2 useAf henc herr hwf f
  obtain rfl := eq_encodedState_of_exec henc herr
  have hle : computeAfLen (pktFilled useAf s) ≤ 183 := computeAfLen_fill_le ..
  have hfit : f.w + f.pad ≤ 184 := pktFilled_w_add_pad_le useAf s
  obtain ⟨hflags, hpcr⟩ := pktFilled_flags useAf s
  have hregion : payloadRegion (encodedPacket useAf s) = memRead inBase f.w s ++ ffs f.pad :=
    payloadRegion_encodedPacket useAf s
  have hregionLen : (payloadRegion (encodedPacket useAf s)).length = f.w + f.pad := by
    rw [hregion, List.length_append, memRead_length, ffs_length]
  obtain ⟨houtLen, hout⟩ := decodedState_output (pkt := encodedPacket useAf s)
    (withInput (encodedPacket useAf s) s2) (by omega)
  rw [memRead_encodedState, encodedState_fillCount]
  refine ⟨_, congrArg Host.Outcome.next (tsPktDec_encodedPacket useAf s hwf), rfl, ?_, ?_, ?_, fun hdec => ?_,
    houtLen.trans hregionLen, hout.trans hregion⟩
  · exact (packetHeader_tsPacketBytes ..).2
  · exact (decodedFlags_tsPacketBytes _ _ _ _ hle).trans hflags
  · exact (decodesPcr_tsPacketBytes _ _ _ _ hle).trans hpcr
  · obtain ⟨hbase, hext⟩ := decodedPcr_tsPacketBytes _ _ _ _ hle hdec
    exact ⟨(decodedState_pcrBase _ _).trans hbase, hext⟩

end Sys2Proof.Machine
end

section
/-! SUPPORT. How a command can end (R440, R441): completed with OK, or raised after the few writes its errors make; and the
interrupt level (R446) after a command, a host write and a reset. The last theorems settle O23 and O27. -/

namespace Sys2Proof.Machine

/-! ### The writes of an error (R441) -/

/-- What a command that raises `st` writes beside STATUS, OUT_LEN and DIAG: its count, or its default structure when the input
is malformed (R441). -/
def errorWrites (i : Instr) (st : Status) (s : State) : State :=
  match i with
  | .tsPktEnc _ => { s with fillCount := 0 }
  | .tsSegment => { s with pktCount := 0 }
  | .peshDec => if st = .malformedInput then { s with hdrCtrl := HdrCtrl.default } else s
  | .tsHdrDec => if st = .malformedInput then { s with tsh := TsHeader.default } else s
  | .tsPktDec =>
    if st = .malformedInput then
      { s with
        tsh := TsHeader.default, afLen := 0, afFlags := 0, pcrV := false
        pcrBaseLo := 0, pcrBaseHi := 0, pcrExt := 0 }
    else s
  | _ => s

@[simp] theorem errorWrites_irqEn (i : Instr) (st : Status) (s : State) : (errorWrites i st s).irqEn = s.irqEn := by
  cases i
  case peshDec | tsHdrDec | tsPktDec =>
    simp only [errorWrites]
    split <;> rfl
  all_goals rfl

/-- The state after an error, field by field in the order of R441. -/
theorem raise_errorWrites_eq (i : Instr) (st : Status) (s : State) : raise st (errorWrites i st s) =
    { s with
      busy := false, done := true, err := st.code, outLen := 0
      fillCount := if i = .tsPktEnc true ∨ i = .tsPktEnc false then 0 else s.fillCount
      pktCount := if i = .tsSegment then 0 else s.pktCount
      diag := if st.code = 1 then s.diag.log .malformedInput else s.diag
      hdrCtrl := if i = .peshDec ∧ st.code = 1 then { f0 := 0x80, f1 := 0, hl := 0 } else s.hdrCtrl
      tsh := if (i = .tsHdrDec ∨ i = .tsPktDec) ∧ st.code = 1 then TsHeader.ofWord 0x47000000 else s.tsh
      afLen := if i = .tsPktDec ∧ st.code = 1 then 0 else s.afLen
      afFlags := if i = .tsPktDec ∧ st.code = 1 then 0 else s.afFlags
      pcrV := if i = .tsPktDec ∧ st.code = 1 then false else s.pcrV
      pcrBaseLo := if i = .tsPktDec ∧ st.code = 1 then 0 else s.pcrBaseLo
      pcrBaseHi := if i = .tsPktDec ∧ st.code = 1 then 0 else s.pcrBaseHi
      pcrExt := if i = .tsPktDec ∧ st.code = 1 then 0 else s.pcrExt } := by
  have hhdr : HdrCtrl.default = { f0 := 0x80, f1 := 0, hl := 0 } := rfl
  have htsh : TsHeader.default = TsHeader.ofWord 0x47000000 := by decide
  simp only [raise_eq, code_eq_one_iff, ← hhdr, ← htsh]
  cases i
  case tsPktEnc useAf => cases useAf <;> simp [errorWrites]
  case peshDec | tsHdrDec | tsPktDec => by_cases hst : st = .malformedInput <;> simp [errorWrites, hst]
  all_goals simp [errorWrites]

/-! ### How a command ends (R440) -/

/-- The two ends of command `i` from state `s`: a completion with OK of a state with the IRQ_EN of `s`, or an error that has
written nothing but `errorWrites`. -/
inductive CommandEnds (i : Instr) (s : State) : State → Prop where
  | completed (u : State) (hirqEn : u.irqEn = s.irqEn) : CommandEnds i s (complete .ok u)
  | raised (st : Status) (hst : st ≠ .ok) : CommandEnds i s (raise st (errorWrites i st s))

theorem timestampFields_error_ne_ok {s : State} {p d : Bool} {e : Status} (h : timestampFields s p d = .error e) :
    e ≠ .ok := by
  rcases timestampFields_error h with rfl | rfl | rfl <;> decide

theorem pesPacket_error_ne_ok {sid : Byte} {h : PesHdr} {payload : List Byte} {e : Status}
    (he : pesPacket sid h payload = .error e) : e ≠ .ok := by
  rw [pesPacket_error he]
  decide

theorem peshTsenc_ends (s : State) : CommandEnds .peshTsenc s (peshTsenc s) := by
  unfold peshTsenc
  split
  next herr => exact .raised _ (timestampFields_error_ne_ok herr)
  next => exact .completed _ rfl

theorem ts5Enc_ends (pfx : Nat) (s : State) : CommandEnds (.ts5Enc pfx) s (ts5Enc pfx s) := by
  unfold ts5Enc
  split
  · exact .raised .invalidOperand (by decide)
  · exact .completed _ rfl

theorem peshDec_ends (s : State) : CommandEnds .peshDec s (peshDec s) := by
  unfold peshDec
  split
  · exact .raised .invalidOperand (by decide)
  · split
    · exact .completed _ rfl
    · exact .raised .malformedInput (by decide)

theorem pesBuildAudio_ends (s : State) : CommandEnds .pesBuildAudio s (pesBuildAudio s) := by
  unfold pesBuildAudio
  split_ifs
  · exact .raised .invalidOperand (by decide)
  · exact .raised .missingConfiguration (by decide)
  · split
    next herr => exact .raised _ (timestampFields_error_ne_ok herr)
    next =>
      split
      next herr => exact .raised _ (pesPacket_error_ne_ok herr)
      next => exact .completed _ rfl

theorem pesBuildVideo_ends (s : State) : CommandEnds .pesBuildVideo s (pesBuildVideo s) := by
  unfold pesBuildVideo
  split_ifs
  · exact .raised .invalidOperand (by decide)
  · exact .raised .invalidOperand (by decide)
  · split
    next herr => exact .raised _ (timestampFields_error_ne_ok herr)
    next =>
      split
      · exact .raised .malformedInput (by decide)
      · split
        next herr => exact .raised _ (pesPacket_error_ne_ok herr)
        next => exact .completed _ rfl

@[simp] theorem writeHdr_irqEn (h : PesHdr) (s : State) : (writeHdr h s).irqEn = s.irqEn := rfl

/-- A cut nested header is no error of PES_DEC (R283). -/
theorem pesDec_ends (s : State) : CommandEnds .pesDec s (pesDec s) := by
  unfold pesDec
  split
  · exact .raised .invalidOperand (by decide)
  · split
    · exact .raised .invalidStartCode (by decide)
    · split
      · exact .raised .malformedInput (by decide)
      · extract_lets bs s' rest
        split
        · exact .completed _ (by rw [emit_irqEn, writeHdr_irqEn])
        · exact .completed _ (by rw [logEvent_irqEn, emit_irqEn, writeHdr_irqEn])

theorem tsSegment_ends (s : State) : CommandEnds .tsSegment s (tsSegment s) := by
  rw [tsSegment_eq]
  split_ifs
  · exact .raised .invalidOperand (by decide)
  · exact .raised .bufferOverflow (by decide)
  · exact .completed _ rfl

theorem tsHdrDec_ends (s : State) : CommandEnds .tsHdrDec s (tsHdrDec s) := by
  rw [tsHdrDec_eq]
  split_ifs
  · exact .raised .invalidOperand (by decide)
  · exact .raised .malformedInput (by decide)
  · exact .completed _ rfl

theorem tsPktEnc_ends (useAf : Bool) (s : State) : CommandEnds (.tsPktEnc useAf) s (tsPktEnc useAf s) := by
  rw [tsPktEnc_eq]
  split_ifs
  · exact .raised .invalidOperand (by decide)
  · exact .completed _ rfl

theorem tsPktDec_ends (s : State) : CommandEnds .tsPktDec s (tsPktDec s) := by
  rw [tsPktDec_eq]
  split_ifs
  · exact .raised .invalidOperand (by decide)
  · exact .raised .malformedInput (by decide)
  · exact .raised .malformedInput (by decide)
  · exact .completed _ rfl

/-- Every command ends in one of the two ways; the three plain encoders raise nothing (R230, R380, R386). -/
theorem exec_ends (s : State) : ∀ i : Instr, ∃ t, exec i s = .next t ∧ CommandEnds i s t
  | .peshTsenc => ⟨_, rfl, peshTsenc_ends s⟩
  | .ts5Enc pfx => ⟨_, rfl, ts5Enc_ends pfx s⟩
  | .peshEnc => ⟨_, rfl, .completed _ rfl⟩
  | .peshDec => ⟨_, rfl, peshDec_ends s⟩
  | .pesBuildAudio => ⟨_, rfl, pesBuildAudio_ends s⟩
  | .pesBuildVideo => ⟨_, rfl, pesBuildVideo_ends s⟩
  | .pesDec => ⟨_, rfl, pesDec_ends s⟩
  | .tsSegment => ⟨_, rfl, tsSegment_ends s⟩
  | .tsHdrEnc => ⟨_, rfl, .completed _ rfl⟩
  | .tsHdrDec => ⟨_, rfl, tsHdrDec_ends s⟩
  | .pcrEnc => ⟨_, rfl, .completed _ rfl⟩
  | .tsPktEnc useAf => ⟨_, rfl, tsPktEnc_ends useAf s⟩
  | .tsPktDec => ⟨_, rfl, tsPktDec_ends s⟩

theorem commandEnds_of_exec {i : Instr} {s t : State} (h : exec i s = .next t) : CommandEnds i s t := by
  obtain ⟨t', ht', hends⟩ := exec_ends s i
  obtain rfl : t' = t := Host.Outcome.next.inj (ht'.symm.trans h)
  exact hends

/-! ### The interrupt level (R446) -/

/-- The interrupt of a completed command is IRQ_EN, which no command writes. -/
theorem CommandEnds.irq_eq {i : Instr} {s t : State} (h : CommandEnds i s t) : t.irq = s.irqEn := by
  cases h with
  | completed u hirqEn => simpa [State.irq] using hirqEn
  | raised st hst => simp [State.irq]

@[simp] theorem respond_irq (a : State × BusResponse) : (respond a).irq = a.1.irq := rfl

@[simp] theorem softReset_irq (s : State) : (softReset s).irq = false := rfl

@[simp] theorem powerOnReset_irq (s : State) : (powerOnReset s).irq = false := rfl

/-- A command just accepted has DONE = 0 (R37). -/
@[simp] theorem acceptCommand_irq (w : Word) (s : State) : (acceptCommand w s).irq = false := Bool.and_false _

/-- SRST goes before the written IRQ_EN (R35). -/
theorem writeCtrl_irq (v : Word) (s : State) : (writeCtrl v s).irq = (!v.getLsbD 1 && v.getLsbD 0 && s.done) := by
  unfold writeCtrl
  cases v.getLsbD 1 with
  | true => exact softReset_irq s
  | false => rfl

theorem writeStatus_irq_of_clear {v : Word} (s : State) (h : v.getLsbD 1 = true) : (writeStatus v s).irq = false := by
  simp [writeStatus, State.irq, h]

/-- A 32-bit write of a register that R106 does not refuse is accepted. -/
theorem hostStep_writeReg {r : Reg} {s : State} (v : Word) (h : writeBlocked s r.offset = false) :
    hostStep (.write .w32 r.offset v) s = .next (respond (writeReg r v s, { error := false, data := none })) := by
  rw [hostStep_write v s (offset_lt_windowSize r)]
  simp [busWrite, accessValid_offset, h, ofOffset_offset]

/-- The interrupt after an accepted register write is the one the write's effect leaves. -/
theorem irq_of_hostStep_writeReg {r : Reg} {v : Word} {s t : State} (hfree : writeBlocked s r.offset = false)
    (h : hostStep (.write .w32 r.offset v) s = .next t) : t.irq = (writeReg r v s).irq := by
  rw [hostStep_writeReg v hfree] at h
  obtain rfl := Host.Outcome.next.inj h
  exact respond_irq _

/-! ### The obligations -/

/-- Settles O23: a completion sets DONE and keeps IRQ_EN; the register writes and the resets by their effects. -/
theorem interruptLevel : Obligations.InterruptLevel := by
  intro s
  refine ⟨rfl, fun i t h => (commandEnds_of_exec h).irq_eq, fun v t h => ?_, fun v t hclear h => ?_, fun w t hidle h => ?_,
    fun t h => ?_, rfl⟩
  · have hfree : writeBlocked s Reg.ctrl.offset = false := writeBlocked_eq_false_iff.2 (.inr (.inl rfl))
    exact (irq_of_hostStep_writeReg hfree h).trans (writeCtrl_irq v s)
  · have hfree : writeBlocked s Reg.status.offset = false := writeBlocked_eq_false_iff.2 (.inr (.inr rfl))
    exact (irq_of_hostStep_writeReg hfree h).trans (writeStatus_irq_of_clear s hclear)
  · have hfree : writeBlocked s Reg.cmd.offset = false := writeBlocked_eq_false_iff.2 (.inl hidle)
    exact (irq_of_hostStep_writeReg hfree h).trans (acceptCommand_irq w s)
  · obtain rfl := Host.Outcome.next.inj h
    exact powerOnReset_irq s

/-- Settles O27: a status other than OK leaves only the raising end of a command, whose writes are `errorWrites`. -/
theorem errorAtomicity : Obligations.ErrorAtomicity := by
  refine ⟨fun s e h => ?_, fun i s t h herr => ?_⟩
  · rw [engineStep_of_decode_error h, illegalCommand_eq]
  · cases commandEnds_of_exec h with
    | completed u hirqEn => exact absurd rfl herr
    | raised st hst => exact raise_errorWrites_eq i st s

end Sys2Proof.Machine
end

section
/-! SUPPORT. The two resets: what power-on (R481) and soft reset (R482) leave in the registers and in the buffers. The last
theorems settle O21 and O22. -/

namespace Sys2Proof.Machine

/-! ### The reset values of the registers (R75) -/

/-- The host reads the reset column of R32 in the reset state. -/
theorem readReg_reset (r : Reg) : readReg r State.reset = r.resetWord := by cases r <;> decide

/-- Every register has its reset value and nothing is pending; the buffers and the model's own fields other than the delay
are free, as R481 and R482 leave them. -/
def RegistersAtReset (t : State) : Prop :=
  t = { State.reset with
    mem := t.mem, params := t.params, host := t.host, resps := t.resps
    draws := t.draws, memDraw := t.memDraw, outDraw := t.outDraw }

theorem registersAtReset_reset : RegistersAtReset State.reset := rfl

theorem registersAtReset_softReset (s : State) : RegistersAtReset (softReset s) := rfl

theorem registersAtReset_powerOnReset (s : State) : RegistersAtReset (powerOnReset s) := rfl

/-- The response to an access is no register. -/
theorem registersAtReset_respond {p : State × BusResponse} (h : RegistersAtReset p.1) : RegistersAtReset (respond p) :=
  congrArg (fun u => respond (u, p.2)) h

theorem RegistersAtReset.readReg_eq {t : State} (h : RegistersAtReset t) (r : Reg) : readReg r t = r.resetWord :=
  calc readReg r t
    _ = readReg r State.reset := (congrArg (readReg r) h).trans (by cases r <;> rfl)
    _ = r.resetWord := readReg_reset r

theorem RegistersAtReset.busy_eq {t : State} (h : RegistersAtReset t) : t.busy = false := congrArg State.busy h

theorem RegistersAtReset.irq_eq {t : State} (h : RegistersAtReset t) : t.irq = false := congrArg State.irq h

/-! ### The buffers after a reset -/

/-- HDR_OPT is all 0 at reset (R75), and both resets make it so. -/
theorem byteAt_reset_hdrOpt {a : Nat} (ha : inHdrOptRegion a = true) : State.reset.byteAt a = 0 :=
  if_pos (c := inHdrOptRegion a = true) ha

theorem byteAt_softReset_hdrOpt (s : State) {a : Nat} (ha : inHdrOptRegion a = true) : (softReset s).byteAt a = 0 := by
  rw [softReset_byteAt, if_pos ha]

theorem byteAt_powerOnReset_hdrOpt (s : State) {a : Nat} (ha : inHdrOptRegion a = true) :
    (powerOnReset s).byteAt a = 0 := by
  rw [powerOnReset_byteAt, if_pos ha]

/-- HDR_OPT and OUT_BUF lie in different regions (R101). -/
theorem inHdrOptRegion_of_inOutRegion {a : Nat} (ha : inOutRegion a = true) : inHdrOptRegion a = false := by
  obtain ⟨hout, -⟩ : outBase ≤ a ∧ a < windowSize := of_decide_eq_true ha
  have hend : hdrOptBase + hdrOptSize ≤ a := Nat.le_trans (by decide) hout
  exact decide_eq_false fun ⟨_, hlt⟩ => Nat.not_lt.2 hend hlt

/-- Soft reset keeps every byte outside HDR_OPT, but those of OUT_BUF when it abandons a command (R482). -/
theorem byteAt_softReset_of_kept {s : State} {a : Nat} (hopt : inHdrOptRegion a = false)
    (hkept : s.busy = false ∨ inOutRegion a = false) : (softReset s).byteAt a = s.byteAt a := by
  have hout : (s.busy && inOutRegion a) = false := Bool.and_eq_false_iff.2 hkept
  rw [softReset_byteAt, hopt, hout]
  rfl

/-! ### The steps -/

/-- A write of CTRL with SRST = 1 is never refused, and is the soft reset (R35, R106, R482). -/
theorem hostStep_softReset {v : Word} (s : State) (h : v.getLsbD 1 = true) :
    hostStep (.write .w32 0x008 v) s = .next (respond (softReset s, { error := false, data := none })) := by
  have hfree : writeBlocked s Reg.ctrl.offset = false := writeBlocked_eq_false_iff.2 (.inr (.inl rfl))
  have heffect : writeReg .ctrl v s = softReset s := if_pos h
  rw [← heffect]
  exact hostStep_writeReg v hfree

/-- With no command pending and no host operation to come the block keeps its state (R455, R481). -/
theorem step_of_idle {s : State} (hbusy : s.busy = false) (hhost : s.host = []) : step s = .next s := by
  simp [step, nextEvent, engineTurn, hbusy, hhost]

/-! ### The obligations -/

/-- Settles O21: the accepted write is the soft reset, whose registers and bytes are those of the lemmas above. -/
theorem softResetState : Obligations.SoftResetState := by
  intro s v hsrst
  have hregs : RegistersAtReset (respond (softReset s, { error := false, data := none })) :=
    registersAtReset_respond (registersAtReset_softReset s)
  refine ⟨_, hostStep_softReset s hsrst, rfl, hregs.readReg_eq, fun a hopt => ?_, fun a hopt hout => ?_,
    fun hidle a hout => ?_⟩ <;> rw [byteAt_respond]
  · exact byteAt_softReset_hdrOpt s hopt
  · exact byteAt_softReset_of_kept hopt (.inr hout)
  · exact byteAt_softReset_of_kept (inHdrOptRegion_of_inOutRegion hout) (.inl hidle)

/-- Settles O22: the reset state and the state of a later power-on have the same registers, and the reset block is idle. -/
theorem powerOnResetState : Obligations.PowerOnResetState := by
  have hreset : RegistersAtReset State.reset := registersAtReset_reset
  refine ⟨hreset.readReg_eq, hreset.busy_eq, hreset.irq_eq, fun _ => byteAt_reset_hdrOpt, step_of_idle rfl rfl, fun s => ?_⟩
  have hregs : RegistersAtReset (powerOnReset s) := registersAtReset_powerOnReset s
  exact ⟨powerOnReset s, rfl, hregs.readReg_eq, hregs.busy_eq, hregs.irq_eq, fun _ => byteAt_powerOnReset_hdrOpt s⟩

end Sys2Proof.Machine
end

section
/-! SUPPORT. The command word by its fields (R141, R144): the decoder and the encoder agree field by field. The theorems
settle O1, O2 and O4. -/

namespace Sys2Proof.Machine

/-! ### The fields of a word as numbers (R141) -/

theorem opcField_eq (w : Word) : opcField w = w.toNat % 256 := by
  simp [opcField]

theorem pfxField_eq (w : Word) : pfxField w = w.toNat / 4096 % 16 := extract_toNat w 12 4

theorem rsvAField_eq (w : Word) : rsvAField w = w.toNat / 512 % 8 := extract_toNat w 9 3

theorem rsvBField_eq (w : Word) : rsvBField w = w.toNat / 65536 % 65536 := extract_toNat w 16 16

theorem useAfField_toNat (w : Word) : (useAfField w).toNat = w.toNat / 256 % 2 := by
  rw [useAfField, BitVec.getLsbD, Nat.testBit_eq_decide_div_mod_eq]
  rcases Nat.mod_two_eq_zero_or_one (w.toNat / 256) with h | h <;> simp [h]

/-- A word is its five fields side by side. -/
theorem toNat_eq_fields (w : Word) : w.toNat =
    opcField w + 256 * (useAfField w).toNat + 512 * rsvAField w + 4096 * pfxField w + 65536 * rsvBField w := by
  rw [opcField_eq, useAfField_toNat, rsvAField_eq, pfxField_eq, rsvBField_eq]
  have hw := w.isLt
  omega

theorem bool_eq_of_toNat_eq : ∀ {a b : Bool}, a.toNat = b.toNat → a = b := by decide

/-! ### The fields of a command (R144) -/

/-- The OPC column of the opcode table (R144). -/
def opcodeOf : Instr → Nat
  | .peshTsenc => 0x01
  | .ts5Enc _ => 0x02
  | .peshEnc => 0x03
  | .peshDec => 0x04
  | .pesBuildAudio => 0x10
  | .pesBuildVideo => 0x11
  | .pesDec => 0x12
  | .tsSegment => 0x20
  | .tsHdrEnc => 0x30
  | .tsHdrDec => 0x31
  | .pcrEnc => 0x32
  | .tsPktEnc _ => 0x33
  | .tsPktDec => 0x34

/-- The PREFIX of a command, 0 where it has none (R142). -/
def prefixOf : Instr → Nat
  | .ts5Enc pfx => pfx
  | _ => 0

/-- The USE_AF of a command, 0 where it has none (R142). -/
def useAfOf : Instr → Bool
  | .tsPktEnc useAf => useAf
  | _ => false

theorem opcodeOf_lt (i : Instr) : opcodeOf i < 256 := by cases i <;> simp [opcodeOf]

theorem wellFormed_iff (i : Instr) : i.wellFormed = true ↔ prefixOf i < 16 := by
  cases i
  case ts5Enc pfx => exact decide_eq_true_iff
  all_goals exact iff_of_true rfl (by simp [prefixOf])

/-- The word of a command as its fields. -/
theorem encode_toNat {i : Instr} (h : i.wellFormed = true) :
    (encode i).toNat = opcodeOf i + 256 * (useAfOf i).toNat + 4096 * prefixOf i := by
  cases i
  case ts5Enc pfx =>
    have hpfx : pfx < 16 := (wellFormed_iff _).1 h
    interval_cases pfx <;> rfl
  case tsPktEnc useAf => cases useAf <;> rfl
  all_goals rfl

/-- The table finds the command of an opcode and hands it the operand fields it has. -/
theorem commandOf_eq_some_iff (opc pfx : Nat) (useAf : Bool) (i : Instr) : commandOf opc pfx useAf = some i ↔
    opc = opcodeOf i ∧ (opc = 0x02 → pfx = prefixOf i) ∧ (opc = 0x33 → useAf = useAfOf i) := by
  constructor
  · intro h
    unfold commandOf at h
    split at h <;> cases h <;> simp [opcodeOf, prefixOf, useAfOf]
  · rintro ⟨rfl, hpfx, haf⟩
    cases i
    case ts5Enc => exact congrArg (fun n => some (Instr.ts5Enc n)) (hpfx rfl)
    case tsPktEnc => exact congrArg (fun b => some (Instr.tsPktEnc b)) (haf rfl)
    all_goals rfl

/-- Only TS5_ENC has a PREFIX (R142). -/
theorem prefixOf_eq_zero {i : Instr} (h : opcodeOf i ≠ 0x02) : prefixOf i = 0 := by
  cases i
  case ts5Enc => exact absurd rfl h
  all_goals rfl

/-- Only TS_PKT_ENC has a USE_AF (R142). -/
theorem useAfOf_eq_false {i : Instr} (h : opcodeOf i ≠ 0x33) : useAfOf i = false := by
  cases i
  case tsPktEnc => exact absurd rfl h
  all_goals rfl

/-! ### The decoder (R143) -/

/-- The decoder accepts a word when the table has its opcode and no clause of R143 applies. -/
theorem decode_eq_ok_iff_clauses (w : Word) (i : Instr) : decode w = .ok i ↔
    commandOf (opcField w) (pfxField w) (useAfField w) = some i ∧ rsvAField w = 0 ∧ rsvBField w = 0 ∧
      (opcField w ≠ 0x33 → useAfField w = false) ∧ (opcField w ≠ 0x02 → pfxField w = 0) := by
  unfold decode
  split
  next hnone => simp [hnone]
  next j hsome =>
    rw [hsome, Option.some_inj]
    split_ifs with hrsv haf hpfx
    · simp only [false_iff]
      rintro ⟨-, ha, hb, -⟩
      exact hrsv.elim (· ha) (· hb)
    · simp only [false_iff]
      rintro ⟨-, -, -, hno, -⟩
      exact absurd haf.1 (by simp [hno haf.2])
    · simp only [false_iff]
      rintro ⟨-, -, -, -, hno⟩
      exact hpfx.1 (hno hpfx.2)
    · simp only [Except.ok.injEq]
      refine (and_iff_left ⟨?_, ?_, fun hopc => ?_, fun hopc => ?_⟩).symm
      · exact not_not.1 (not_or.1 hrsv).1
      · exact not_not.1 (not_or.1 hrsv).2
      · exact Bool.eq_false_iff.2 fun h => haf ⟨h, hopc⟩
      · exact not_not.1 fun h => hpfx ⟨h, hopc⟩

/-- The decoder reads command `i` from exactly the words with the fields of `i` and no reserved bit set. -/
theorem decode_eq_ok_iff (w : Word) (i : Instr) : decode w = .ok i ↔
    opcField w = opcodeOf i ∧ pfxField w = prefixOf i ∧ useAfField w = useAfOf i ∧ rsvAField w = 0 ∧ rsvBField w = 0 := by
  rw [decode_eq_ok_iff_clauses, commandOf_eq_some_iff]
  constructor
  · rintro ⟨⟨hopc, hpfx, haf⟩, ha, hb, hnoAf, hnoPfx⟩
    refine ⟨hopc, ?_, ?_, ha, hb⟩
    · by_cases h : opcField w = 0x02
      · exact hpfx h
      · rw [hnoPfx h, prefixOf_eq_zero (hopc ▸ h)]
    · by_cases h : opcField w = 0x33
      · exact haf h
      · rw [hnoAf h, useAfOf_eq_false (hopc ▸ h)]
  · rintro ⟨hopc, hpfx, haf, ha, hb⟩
    exact ⟨⟨hopc, fun _ => hpfx, fun _ => haf⟩, ha, hb, fun h => haf.trans (useAfOf_eq_false (hopc ▸ h)),
      fun h => hpfx.trans (prefixOf_eq_zero (hopc ▸ h))⟩

/-! ### The obligations -/

/-- Settles O1: the fields of the word of a command are the command's own, and its reserved bits are clear. -/
theorem decodeEncodeRoundTrip : Obligations.DecodeEncodeRoundTrip := by
  intro i hwf
  have hword := encode_toNat hwf
  have hopc := opcodeOf_lt i
  have hpfx := (wellFormed_iff i).1 hwf
  have haf := Bool.toNat_lt (useAfOf i)
  have huse : (useAfField (encode i)).toNat = (useAfOf i).toNat := by
    rw [useAfField_toNat, hword]
    omega
  rw [decode_eq_ok_iff, opcField_eq, pfxField_eq, rsvAField_eq, rsvBField_eq, hword]
  exact ⟨by omega, by omega, bool_eq_of_toNat_eq huse, by omega, by omega⟩

/-- Settles O2: a word is no more than its fields, and those of an accepted word are the command's. -/
theorem encodeDecodeRoundTrip : Obligations.EncodeDecodeRoundTrip := by
  intro w i h
  obtain ⟨hopc, hpfx, haf, ha, hb⟩ := (decode_eq_ok_iff w i).1 h
  have hwf : i.wellFormed = true := by
    rw [wellFormed_iff, ← hpfx, pfxField_eq]
    exact Nat.mod_lt _ (by decide)
  refine ⟨hwf, BitVec.eq_of_toNat_eq ?_⟩
  rw [encode_toNat hwf, toNat_eq_fields w, hopc, hpfx, haf, ha, hb]
  omega

/-- Settles O4: each word by evaluation of the decoder. -/
theorem sampleWordsDecode : Obligations.SampleWordsDecode := by
  unfold Obligations.SampleWordsDecode
  decide

end Sys2Proof.Machine
end

section
/-! SUPPORT. Whose turn a step is (R110, R440, R492), and why a pending command cannot stay pending. The theorems settle O5,
O6, O7 and O8. -/

namespace Sys2Proof.Machine

/-! ### The two agents -/

/-- The ENGINE step of a legal word is the command's own (R440). -/
theorem engineStep_of_decode_ok {s : State} {i : Instr} (h : decode s.cmd = .ok i) : engineStep s = exec i s := by
  rw [engineStep, h]

/-- When the ENGINE has no step to take, the host's next operation is the event (log 4). -/
theorem step_eq_hostStep {s : State} {op : HostOp} {rest : List HostOp} (hturn : s.busy = false ∨ s.delay ≠ 0)
    (hhost : s.host = op :: rest) : step s = hostStep op { s with host := rest, delay := s.delay - 1 } := by
  have hengine : ¬engineTurn s = true := by
    rw [engineTurn, hhost]
    rcases hturn with hidle | hdelay
    · simp [hidle]
    · simp [hdelay]
  rw [step, nextEvent, if_neg hengine, hhost]
  rfl

/-- The word placed by `withFetchWord` is the command's (log 5). -/
theorem withFetchWord_cmd (s : State) (w : Word) : (s.withFetchWord 32 w.toNat).cmd = w := by
  show BitVec.ofNat 32 (w.toNat % 2 ^ 32) = w
  rw [Nat.mod_eq_of_lt w.isLt, BitVec.ofNat_toNat, BitVec.setWidth_eq]

/-- Settles O5. -/
theorem stepRunsThePendingCommand : Obligations.StepRunsThePendingCommand := by
  intro s i hbusy hturn _ hdecode
  rw [step_eq_engineStep hbusy hturn, engineStep_of_decode_ok hdecode]

/-- Settles O6. -/
theorem stepWithoutEngineTurn : Obligations.StepWithoutEngineTurn := by
  refine fun s hturn => ⟨fun hnone => ?_, fun op rest hhost => ?_⟩
  · exact step_of_idle (hturn.resolve_right fun h => h.2 hnone) hnone
  · exact step_eq_hostStep (hturn.imp_right fun h => h.1) hhost

/-- Settles O7: the placed word decodes to the command, and its ENGINE step is due at once. -/
theorem placedCommandRunsNext : Obligations.PlacedCommandRunsNext := by
  intro s i hwf
  refine stepRunsThePendingCommand _ i rfl (.inl rfl) hwf ?_
  rw [withFetchWord_cmd]
  exact decodeEncodeRoundTrip i hwf

/-! ### A pending command ends (R492) -/

/-- The host operation addresses the window only (R100). -/
def addressesWindow : HostOp → Prop
  | .write _ off _ | .read _ off => off < windowSize
  | .copyByte src dst => src < windowSize ∧ dst < windowSize
  | .wait | .powerOn => True

theorem addressesWindow_of_wellFormed {op : HostOp} (h : op.wellFormed = true) : addressesWindow op := by
  cases op <;> simp_all [HostOp.wellFormed, addressesWindow]

/-- The host's side and the latch of `t`, after a host operation on `s` with a command pending: the command was abandoned, or
it waits on with the same delay and the host stays inside the window. -/
def AbandonedOrPending (s t : State) : Prop :=
  t.busy = false ∨ t.busy = true ∧ t.delay = s.delay ∧ ∀ op ∈ t.host, addressesWindow op

/-- A bus write that R106 lets through while BUSY goes to STATUS or to CTRL, where it may be the soft reset (R482). -/
theorem busWrite_abandonedOrPending (w : Width) (off : Nat) (v : Word) {s : State} (hbusy : s.busy = true)
    (hhost : ∀ op ∈ s.host, addressesWindow op) : AbandonedOrPending s (busWrite w off v s).1 := by
  rcases busWrite_cases w off v s with he | ⟨r, -, -, hlive, he⟩ | ⟨-, hidle, -⟩
  · rw [he]
    exact .inr ⟨hbusy, rfl, hhost⟩
  · rw [he]
    obtain rfl | rfl := hlive hbusy
    · by_cases hsrst : v.getLsbD 1 = true
      · exact .inl (congrArg State.busy (if_pos hsrst : writeCtrl v s = softReset s))
      · rw [writeReg, writeCtrl, if_neg hsrst]
        exact .inr ⟨hbusy, rfl, hhost⟩
    · exact .inr ⟨hbusy, rfl, hhost⟩
  · rw [hidle] at hbusy
    cases hbusy

theorem busRead_abandonedOrPending (w : Width) (off : Nat) {s : State} (hbusy : s.busy = true)
    (hhost : ∀ op ∈ s.host, addressesWindow op) : AbandonedOrPending s (busRead w off s).1 := by
  rw [busRead_frame]
  exact .inr ⟨hbusy, rfl, hhost⟩

/-- More operations inside the window in front of the host's list change neither side. -/
theorem AbandonedOrPending.pushHost {s t : State} {ops : List HostOp} (h : AbandonedOrPending s t)
    (hops : ∀ op ∈ ops, addressesWindow op) : AbandonedOrPending s (pushHost ops t) := by
  refine h.imp_right fun ⟨hbusy, hdelay, hhost⟩ => ⟨hbusy, hdelay, fun op hop => ?_⟩
  exact (List.mem_append.1 hop).elim (hops op) (hhost op)

/-- A host operation inside the window gives a next state, and the pending command is abandoned or waits on (R104, R492). -/
theorem hostStep_abandonedOrPending {op : HostOp} {s : State} (hbusy : s.busy = true) (hop : addressesWindow op)
    (hhost : ∀ op ∈ s.host, addressesWindow op) : ∃ t, hostStep op s = .next t ∧ AbandonedOrPending s t := by
  cases op with
  | write w off v => exact ⟨_, hostStep_write v s hop, busWrite_abandonedOrPending w off v hbusy hhost⟩
  | read w off => exact ⟨_, hostStep_read s hop, busRead_abandonedOrPending w off hbusy hhost⟩
  | wait =>
    refine ⟨_, rfl, AbandonedOrPending.pushHost (busRead_abandonedOrPending _ _ hbusy hhost) ?_⟩
    rw [hbusy, if_pos rfl]
    exact List.forall_mem_singleton.2 trivial
  | copyByte src dst =>
    refine ⟨_, if_neg (Nat.not_le.2 hop.1), AbandonedOrPending.pushHost (busRead_abandonedOrPending _ _ hbusy hhost) ?_⟩
    exact List.forall_mem_singleton.2 hop.2
  | powerOn => exact ⟨_, rfl, .inl rfl⟩

/-- The ENGINE step ends the command, whatever the latched word (R440). -/
theorem engineStep_ends (s : State) : ∃ t, engineStep s = .next t ∧ t.busy = false := by
  cases hdecode : decode s.cmd with
  | error e => exact ⟨_, engineStep_of_decode_error hdecode, rfl⟩
  | ok i =>
    obtain ⟨t, hexec, hends⟩ := exec_ends s i
    refine ⟨t, (engineStep_of_decode_ok hdecode).trans hexec, ?_⟩
    cases hends <;> rfl

theorem run_succ {k : Nat} {s t : State} (h : step s = .next t) :
    Host.Core.run core (k + 1) s = Host.Core.run core k t := by
  have hcore : core.step s = .next t := h
  simp only [Host.Core.run, hcore]

/-- The induction behind O8: a host operation uses up one turn of the delay, or abandons the command. -/
theorem pending_ends (d : Nat) : ∀ s : State, s.busy = true → s.delay = d → (∀ op ∈ s.host, addressesWindow op) →
    ∃ (k : Nat) (t : State), k ≤ d + 1 ∧ Host.Core.run core k s = .next t ∧ t.busy = false := by
  have hengine : ∀ s : State, s.busy = true → (s.delay = 0 ∨ s.host = []) →
      ∃ t, Host.Core.run core 1 s = .next t ∧ t.busy = false := fun s hbusy hturn => by
    obtain ⟨t, hstep, hidle⟩ := engineStep_ends s
    exact ⟨t, run_succ ((step_eq_engineStep hbusy hturn).trans hstep), hidle⟩
  induction d with
  | zero =>
    intro s hbusy hdelay _
    obtain ⟨t, hrun, hidle⟩ := hengine s hbusy (.inl hdelay)
    exact ⟨1, t, le_rfl, hrun, hidle⟩
  | succ d ih =>
    intro s hbusy hdelay hhost
    cases hops : s.host with
    | nil =>
      obtain ⟨t, hrun, hidle⟩ := hengine s hbusy (.inr hops)
      exact ⟨1, t, by omega, hrun, hidle⟩
    | cons op rest =>
      rw [hops] at hhost
      obtain ⟨hop, hrest⟩ := List.forall_mem_cons.1 hhost
      obtain ⟨t, hstep, hcases⟩ := hostStep_abandonedOrPending (s := { s with host := rest, delay := s.delay - 1 })
        hbusy hop hrest
      have hrun := fun k => run_succ (k := k) ((step_eq_hostStep (.inr (by omega)) hops).trans hstep)
      rcases hcases with hidle | ⟨hbusy', hdelay', hhost'⟩
      · exact ⟨1, t, by omega, hrun 0, hidle⟩
      · obtain ⟨k, u, hk, hu, hidle⟩ := ih t hbusy' (by rw [hdelay', hdelay]; rfl) hhost'
        exact ⟨k + 1, u, by omega, (hrun k).trans hu, hidle⟩

/-- Settles O8. -/
theorem pendingCommandEnds : Obligations.PendingCommandEnds := fun s hbusy hwf =>
  pending_ends s.delay s hbusy rfl fun op hop => addressesWindow_of_wellFormed (hwf op hop)

end Sys2Proof.Machine
end

section
/-! SUPPORT. The registers as the host sees them (R32 to R67): the bits of the packed words, what a register write stores, and
what a read answers, also while BUSY (R73). The theorems settle O12, O14, O15, O16, O17, O18, O19 and O20. -/

namespace Sys2Proof.Machine

/-! ### The packed words by their bits -/

/-- A one-bit field at bit 0 is a number 0 or 1. -/
theorem bitWord_zero (b : Bool) : bitWord b 0 = if b then 1 else 0 := by cases b <;> rfl

theorem bitWord_getLsbD (b : Bool) {i k : Nat} (hk : k < 32) : (bitWord b i).getLsbD k = (b && decide (k = i)) := by
  simp only [bitWord, BitVec.getLsbD_shiftLeft, BitVec.getLsbD_setWidth, BitVec.getLsbD_ofBool, hk, decide_true,
    Bool.true_and]
  by_cases hki : k = i
  · subst hki
    simp
  · by_cases hlt : k < i
    · simp [hki, hlt]
    · simp [hki, show k - i ≠ 0 by omega]

/-- STATUS by position (R36). -/
theorem statusWord_getLsbD (s : State) {k : Nat} (hk : k < 32) : s.statusWord.getLsbD k =
    if k = 0 then s.busy else if k = 1 then s.done else if k = 2 then s.berr
    else if k < 4 then false else s.err.getLsbD (k - 4) := by
  simp only [State.statusWord, BitVec.getLsbD_or, bitWord_getLsbD _ hk, BitVec.getLsbD_shiftLeft,
    BitVec.getLsbD_setWidth, hk]
  interval_cases k <;> simp

/-- The two flags of TS_VALID (R46). -/
theorem tsValidWord_toNat (p d : Bool) :
    (bitWord p 0 ||| bitWord d 1).toNat = (if p then 1 else 0) + (if d then 2 else 0) := by
  cases p <;> cases d <;> rfl

theorem tsValidWord_getLsbD (p d : Bool) {k : Nat} (hk : k < 32) : (bitWord p 0 ||| bitWord d 1).getLsbD k =
    if k = 0 then p else if k = 1 then d else false := by
  rw [BitVec.getLsbD_or, bitWord_getLsbD _ hk, bitWord_getLsbD _ hk]
  interval_cases k <;> simp

/-- Bits 7:0 of HDR_CTRL are wire byte 0 (R57). -/
theorem hdrWord_extract_f0 (h : HdrCtrl) {lo n : Nat} (hfit : lo + n ≤ 8) :
    h.word.extractLsb' lo n = h.f0.extractLsb' lo n := by
  refine BitVec.eq_of_getLsbD_eq fun i hi => ?_
  rw [BitVec.getLsbD_extractLsb', BitVec.getLsbD_extractLsb', hdrWord_bit, if_pos (by omega)]

/-- Bits 15:8 of HDR_CTRL are wire byte 1 (R57). -/
theorem hdrWord_extract_f1 (h : HdrCtrl) {lo n : Nat} (hfit : lo + n ≤ 8) :
    h.word.extractLsb' (8 + lo) n = h.f1.extractLsb' lo n := by
  refine BitVec.eq_of_getLsbD_eq fun i hi => ?_
  rw [BitVec.getLsbD_extractLsb', BitVec.getLsbD_extractLsb', hdrWord_bit, if_neg (by omega), if_pos (by omega),
    show 8 + lo + i - 8 = lo + i by omega]

/-- Bits 23:16 of HDR_CTRL are HL and bits 31:24 are 0 (R57). -/
theorem hdrWord_extract_hl (h : HdrCtrl) : h.word.extractLsb' 16 8 = h.hl ∧ h.word.extractLsb' 24 8 = 0 := by
  constructor <;> refine BitVec.eq_of_getLsbD_eq fun i hi => ?_ <;>
    rw [BitVec.getLsbD_extractLsb', hdrWord_bit, if_neg (by omega), if_neg (by omega)]
  · rw [show 16 + i - 16 = i by omega, decide_eq_true hi, Bool.true_and]
  · rw [BitVec.getLsbD_of_ge _ _ (by omega), Bool.and_false]
    exact BitVec.getLsbD_zero.symm

/-- A field of TSH, from the bits of the word (R62). -/
theorem tshWord_extract (h : TsHeader) : h.word.extractLsb' 24 8 = 0x47 ∧ h.word.extractLsb' 8 13 = h.pid ∧
    h.word.extractLsb' 6 2 = h.sc ∧ h.word.extractLsb' 0 4 = h.cc := by
  refine ⟨?_, ?_, ?_, ?_⟩ <;> refine BitVec.eq_of_getLsbD_eq fun i hi => ?_ <;>
    rw [BitVec.getLsbD_extractLsb', tshWord_bit] <;> interval_cases i <;> simp

/-- The word written to TSH reads back below SYNC (R62). -/
theorem tshWord_ofWord (v : Word) : (TsHeader.ofWord v).word = 0x47#8 ++ v.extractLsb' 0 24 := by
  refine BitVec.eq_of_getLsbD_eq fun i hi => ?_
  rw [tshWord_bit, BitVec.getLsbD_append]
  simp only [TsHeader.ofWord, BitVec.getLsbD_extractLsb']
  interval_cases i <;> simp

/-! ### What a register write stores (R102) -/

/-- `v` on the bits of the mask `m` and `old` on the others. -/
def mergeBits (m v old : Word) : Word := (v &&& m) ||| (old &&& ~~~m)

theorem mergeBits_getLsbD (m v old : Word) {k : Nat} (hk : k < 32) :
    (mergeBits m v old).getLsbD k = if m.getLsbD k then v.getLsbD k else old.getLsbD k := by
  simp only [mergeBits, BitVec.getLsbD_or, BitVec.getLsbD_and, BitVec.getLsbD_not, hk, decide_true, Bool.true_and]
  cases m.getLsbD k <;> simp

/-- A read-only register ignores the written word. -/
theorem mergeBits_none (v old : Word) : mergeBits 0x00000000 v old = old := by
  refine BitVec.eq_of_getLsbD_eq fun k hk => ?_
  rw [mergeBits_getLsbD _ _ _ hk, if_neg (by simp)]

/-- A register of 32 writable bits stores the written word. -/
theorem mergeBits_all (v old : Word) : mergeBits 0xFFFFFFFF v old = v := by
  refine BitVec.eq_of_getLsbD_eq fun k hk => ?_
  rw [mergeBits_getLsbD _ _ _ hk, if_pos (by interval_cases k <;> rfl)]

/-- A register whose only field is its low `n` bits stores the low bits of the written word. -/
theorem mergeBits_low {n : Nat} (v : Word) (old : BitVec n) :
    mergeBits ((BitVec.allOnes n).setWidth 32) v (old.setWidth 32) = (v.extractLsb' 0 n).setWidth 32 := by
  refine BitVec.eq_of_getLsbD_eq fun k hk => ?_
  rw [mergeBits_getLsbD _ _ _ hk]
  by_cases hn : k < n
  · simp [hk, hn]
  · simp [hn, BitVec.getLsbD_of_ge old k (Nat.not_lt.1 hn)]

/-- A register of a single flag stores bit 0. -/
theorem mergeBits_flag (v : Word) (old : Bool) :
    mergeBits 0x00000001 v (bitWord old 0) = bitWord (v.getLsbD 0) 0 := by
  refine BitVec.eq_of_getLsbD_eq fun k hk => ?_
  rw [mergeBits_getLsbD _ _ _ hk, bitWord_getLsbD _ hk, bitWord_getLsbD _ hk]
  interval_cases k <;> simp

theorem mergeBits_tsValid (v : Word) (p d : Bool) : mergeBits 0x00000003 v (bitWord p 0 ||| bitWord d 1) =
    bitWord (v.getLsbD 0) 0 ||| bitWord (v.getLsbD 1) 1 := by
  refine BitVec.eq_of_getLsbD_eq fun k hk => ?_
  rw [mergeBits_getLsbD _ _ _ hk, tsValidWord_getLsbD _ _ hk, tsValidWord_getLsbD _ _ hk]
  interval_cases k <;> simp

theorem mergeBits_hdrCtrl (v : Word) (h : HdrCtrl) :
    mergeBits 0x00FFFFFF v h.word = (HdrCtrl.ofWord v).word := by
  refine BitVec.eq_of_getLsbD_eq fun k hk => ?_
  rw [mergeBits_getLsbD _ _ _ hk, hdrWord_bit, hdrWord_bit]
  simp only [HdrCtrl.ofWord, BitVec.getLsbD_extractLsb']
  interval_cases k <;> simp

theorem mergeBits_tsh (v : Word) (h : TsHeader) : mergeBits 0x00FFFFFF v h.word = (TsHeader.ofWord v).word := by
  refine BitVec.eq_of_getLsbD_eq fun k hk => ?_
  rw [mergeBits_getLsbD _ _ _ hk, tshWord_bit, tshWord_bit]
  simp only [TsHeader.ofWord, BitVec.getLsbD_extractLsb']
  interval_cases k <;> simp

/-- The register written reads as the word on its writable bits and as before on the others (R102). -/
theorem readReg_writeReg_same {r : Reg} (v : Word) (s : State) (h : r.hasWriteEffect = false) :
    readReg r (writeReg r v s) = mergeBits r.writeMask v (readReg r s) := by
  cases r
  case ctrl | status | cmd | diag => cases h
  case id | version | outLen | fillCount | pktCount | pesdSid | pesdLen | afLen => exact (mergeBits_none v _).symm
  case tsValid => exact (mergeBits_tsValid v _ _).symm
  case cfgCtrl | pcrCtrl => exact (mergeBits_flag v _).symm
  case streamId => exact (mergeBits_low v s.streamId).symm
  case afFlags => exact (mergeBits_low v s.afFlags).symm
  case pcrBaseHi => exact (mergeBits_low v s.pcrBaseHi).symm
  case pcrExt => exact (mergeBits_low v s.pcrExt).symm
  case hdrCtrl => exact (mergeBits_hdrCtrl v _).symm
  case tsh => exact (mergeBits_tsh v _).symm
  all_goals exact (mergeBits_all v _).symm

/-- No two registers share a field: every other register reads as before (R102). -/
theorem readReg_writeReg_of_ne {r r' : Reg} (v : Word) (s : State) (h : r.hasWriteEffect = false) (hne : r' ≠ r) :
    readReg r' (writeReg r v s) = readReg r' s := by
  cases r
  case ctrl | status | cmd | diag => cases h
  all_goals cases r' <;> first | rfl | exact absurd rfl hne

/-- No register write without a side effect touches the buffers (R102). -/
theorem byteAt_writeReg {r : Reg} (v : Word) (s : State) (h : r.hasWriteEffect = false) (a : Nat) :
    (writeReg r v s).byteAt a = s.byteAt a := by
  cases r
  case ctrl | status | cmd | diag => cases h
  all_goals rfl

/-- The answer to an access is no register. -/
theorem readReg_respond (r : Reg) (p : State × BusResponse) : readReg r (respond p) = readReg r p.1 := by
  cases r <;> rfl

/-! ### What a read answers (R73, R102) -/

/-- A register that may be read answers its word, and the read changes nothing. -/
theorem busRead_register {r : Reg} {s : State} (h : s.busy = false ∨ r.liveWhileBusy = true) :
    busRead .w32 r.offset s = (s, { error := false, data := some (readReg r s) }) := by
  have hfree : ¬(s.busy && !r.liveWhileBusy) = true := by rcases h with h | h <;> simp [h]
  simp only [busRead, accessValid_offset, ofOffset_offset, if_neg hfree]
  rfl

theorem hostStep_readReg {r : Reg} {s : State} (h : s.busy = false ∨ r.liveWhileBusy = true) :
    hostStep (.read .w32 r.offset) s =
      .next { s with resps := { error := false, data := some (readReg r s) } :: s.resps } := by
  rw [hostStep_read s (offset_lt_windowSize r), busRead_register h]
  rfl

/-- The five registers of R73. -/
theorem mem_liveRegisters_iff (r : Reg) :
    r ∈ [Reg.status, Reg.id, Reg.version, Reg.ctrl, Reg.cmd] ↔ r.liveWhileBusy = true := by cases r <;> decide

/-- Any other valid read while BUSY answers a free value (R73; log 3). -/
theorem busRead_unspecified {w : Width} {off : Nat} {s : State} (hbusy : s.busy = true)
    (hvalid : accessValid s.params w off = true) (h : ∀ r : Reg, r.offset = off → r.liveWhileBusy = false) :
    busRead w off s = unspecifiedRead w s := by
  have hv : ¬accessValid s.params w off = false := by simp [hvalid]
  rw [busRead, if_neg hv]
  cases hr : Reg.ofOffset off with
  | some r => exact if_pos (by simp [hbusy, h r (offset_of_ofOffset hr)])
  | none => exact if_pos hbusy

/-! ### The obligations -/

/-- Settles O12, by the two kinds of valid reads while BUSY. -/
theorem readsWhileBusy : Obligations.ReadsWhileBusy := by
  intro s hbusy
  refine ⟨fun r hr => hostStep_readReg (.inr ((mem_liveRegisters_iff r).1 hr)), fun w off hoff hvalid hno => ?_⟩
  have hlive : ∀ r : Reg, r.offset = off → r.liveWhileBusy = false := fun r hr =>
    Bool.eq_false_iff.2 fun h => hno r ((mem_liveRegisters_iff r).2 h) hr
  rw [hostStep_read s hoff, busRead_unspecified hbusy hvalid hlive]
  rfl

/-- A write of CTRL without SRST stores IRQ_EN, whatever BUSY is (R35, R106). -/
theorem hostStep_writeIrqEn {v : Word} (s : State) (h : v.getLsbD 1 = false) : hostStep (.write .w32 0x008 v) s =
    .next { s with irqEn := v.getLsbD 0, resps := { error := false, data := none } :: s.resps } := by
  have hfree : writeBlocked s Reg.ctrl.offset = false := writeBlocked_eq_false_iff.2 (.inr (.inl rfl))
  have heffect : writeReg .ctrl v s = { s with irqEn := v.getLsbD 0 } := if_neg (by rw [h]; decide)
  have hstep := hostStep_writeReg v hfree
  rw [heffect] at hstep
  exact hstep

/-- Settles O14: the write reaches the register's own field. -/
theorem registerReadAfterWrite : Obligations.RegisterReadAfterWrite := by
  refine ⟨fun s r v hidle heffect => ⟨_, hostStep_writeReg_idle r v hidle, ?_, fun r' hne => ?_, fun a => ?_⟩,
    fun s v hsrst => hostStep_writeIrqEn s hsrst⟩
  · rw [readReg_respond]
    exact readReg_writeReg_same v s heffect
  · rw [readReg_respond]
    exact readReg_writeReg_of_ne v s heffect hne
  · exact byteAt_writeReg v s heffect a

/-- Settles O15: STATUS may be read at any time, so a turn of WAIT reads it, and its bit 0 is BUSY. -/
theorem registerReadsAndWait : Obligations.RegisterReadsAndWait := by
  refine fun s => ⟨rfl, rfl, fun r hidle => hostStep_readReg (.inl hidle), ?_⟩
  have hbit : (readReg .status s).getLsbD 0 = s.busy := statusWord_getLsbD s (by decide)
  have hhost : (if s.busy then [HostOp.wait] else []) ++ s.host = if s.busy then .wait :: s.host else s.host := by
    cases s.busy <;> rfl
  rw [hbit, ← hhost, show hostStep .wait s = .next (hostWait s) from rfl, hostWait, busRead_register (.inr rfl)]
  rfl

/-- Settles O16: the map by its table, and each field by the definition of its register. -/
theorem registerMapIsInjective : Obligations.RegisterMapIsInjective := by
  refine ⟨by decide, fun r => ⟨ofOffset_offset r, offset_mod_four r, offset_lt_hdrOptBase r⟩,
    fun _ _ h => offset_of_ofOffset h, fun s => ?_⟩
  have hfield : ∀ {n : Nat} (f : BitVec n), n ≤ 32 → (f.setWidth 32).toNat = f.toNat := fun f hn =>
    BitVec.toNat_setWidth_of_le hn
  exact ⟨bitWord_zero _, rfl, rfl, rfl, rfl, tsValidWord_toNat _ _, rfl, rfl, rfl, rfl, rfl, rfl, rfl,
    hfield _ (by decide), bitWord_zero _, rfl, rfl, rfl, hfield _ (by decide), hfield _ (by decide), hfield _ (by decide),
    hfield _ (by decide), bitWord_zero _, rfl, hfield _ (by decide), hfield _ (by decide)⟩

/-- Settles O17: the bits by position, and a write of STATUS, which R106 never refuses. -/
theorem statusBitsAndWriteOneToClear : Obligations.StatusBitsAndWriteOneToClear := by
  intro s v
  have hbit : ∀ {k : Nat}, k < 32 → (readReg .status s).getLsbD k = _ := fun hk => statusWord_getLsbD s hk
  have hfree : writeBlocked s Reg.status.offset = false := writeBlocked_eq_false_iff.2 (.inr (.inr rfl))
  refine ⟨hbit (by decide), hbit (by decide), hbit (by decide), hbit (by decide), ?_, ?_, ?_⟩
  · refine BitVec.eq_of_getLsbD_eq fun i hi => ?_
    rw [BitVec.getLsbD_extractLsb', hbit (by omega)]
    interval_cases i <;> simp
  · refine BitVec.eq_of_getLsbD_eq fun i hi => ?_
    rw [BitVec.getLsbD_extractLsb', hbit (by omega), if_neg (by omega), if_neg (by omega), if_neg (by omega),
      if_neg (by omega), BitVec.getLsbD_of_ge _ _ (by omega), Bool.and_false]
    exact BitVec.getLsbD_zero.symm
  · refine (hostStep_writeReg (r := .status) v hfree).trans ?_
    rw [writeReg, writeStatus]
    cases v.getLsbD 1 <;> cases v.getLsbD 2 <;> simp [respond]

/-- Settles O18. -/
theorem tshBitPositions : Obligations.TshBitPositions := by
  intro s v hidle
  obtain ⟨hsync, hpid, hsc, hcc⟩ := tshWord_extract s.tsh
  refine ⟨hsync, tshWord_bit s.tsh 23, tshWord_bit s.tsh 22, tshWord_bit s.tsh 21, hpid, hsc, tshWord_bit s.tsh 5,
    tshWord_bit s.tsh 4, hcc, _, hostStep_writeReg_idle .tsh v hidle, tshWord_ofWord v⟩

/-- Settles O19. -/
theorem hdrCtrlBitPositions : Obligations.HdrCtrlBitPositions := by
  intro s
  obtain ⟨hhl, hzero⟩ := hdrWord_extract_hl s.hdrCtrl
  have hbit : ∀ k, (readReg .hdrCtrl s).getLsbD k = _ := hdrWord_bit s.hdrCtrl
  exact ⟨hdrWord_extract_f0 _ (by decide), hdrWord_extract_f0 _ (by decide), hbit 3, hbit 2, hbit 1, hbit 0,
    hdrWord_extract_f1 (lo := 6) _ (by decide), hbit 13, hbit 12, hbit 11, hbit 10, hbit 9, hbit 8, hhl, hzero⟩

/-- Settles O20: an accepted write of CMD, and the refusal of R106 while BUSY. -/
theorem commandWriteStartsACommand : Obligations.CommandWriteStartsACommand := by
  refine fun s w => ⟨rfl, fun hidle => ⟨_, hostStep_writeReg_idle .cmd w hidle, rfl⟩, fun hbusy => ?_⟩
  have hblocked : writeBlocked s Reg.cmd.offset = true := by simp [writeBlocked, hbusy, Reg.offset]
  rw [show 0x010 = Reg.cmd.offset from rfl, hostStep_write w s (offset_lt_windowSize .cmd),
    busWrite_rejected w (.inr hblocked)]
  rfl

end Sys2Proof.Machine
end

section
/-! SUPPORT. COPY (R149): a turn is a read and a write of one byte, and the bytes of the turns add up. The last theorem
settles O24. -/

namespace Sys2Proof.Machine

/-- One string stored after another is their concatenation stored. -/
theorem StoresAt.append {s t u : State} {base : Nat} {bs bs' : List Byte} (h : StoresAt s t base bs)
    (h' : StoresAt t u (base + bs.length) bs') : StoresAt s u base (bs ++ bs') := by
  obtain ⟨hin, hout⟩ := h
  obtain ⟨hin', hout'⟩ := h'
  constructor
  · intro i hi
    rw [List.length_append] at hi
    by_cases hfirst : i < bs.length
    · rw [hout' _ (.inl (by omega)), hin i hfirst, List.getD_append _ _ _ _ hfirst]
    · have hlater := hin' (i - bs.length) (by omega)
      rw [Nat.add_assoc, Nat.add_sub_cancel' (Nat.not_lt.1 hfirst)] at hlater
      rw [hlater, List.getD_append_right _ _ _ _ (Nat.not_lt.1 hfirst)]
  · intro a ha
    rw [List.length_append] at ha
    rw [hout' a (by omega), hout a (by omega)]

/-- No buffer byte lies among the registers (R101). -/
theorem le_of_bufferByte {p : Params} {a : Nat} (h : bufferByte p a = true) : 0x100 ≤ a := by
  simp only [bufferByte, inHdrOptRegion, Bool.or_eq_true, decide_eq_true_eq] at h
  simp only [hdrOptBase, cfgBase, inBase, outBase] at h
  omega

/-- A byte access to a buffer byte is valid (R103). -/
theorem accessValid_byte {p : Params} {a : Nat} (h : bufferByte p a = true) : accessValid p .w8 a = true := by
  refine (accessValid_noRegister (ofOffset_eq_none_of_le (le_of_bufferByte h))).2 ⟨Nat.mod_one a, fun i hi => ?_⟩
  obtain rfl : i = 0 := Nat.lt_one_iff.1 hi
  exact h

/-- Bytes put on the bus and taken from it are the same bytes (R103). -/
theorem leBytes_leValue {bs : List Byte} (h : bs.length ≤ 4) :
    leBytes bs.length (BitVec.ofNat 32 (leValue bs)) = bs := by
  refine List.ext_getElem (leBytes_length _ _) fun i hi hi' => ?_
  rw [← List.getD_eq_getElem _ 0 hi, ← List.getD_eq_getElem _ 0 hi', leBytes_getD _ hi', extractLsb'_ofNat_leValue h]

/-- COPY of `n + 1` bytes is a turn for the first and COPY of the rest. -/
theorem hostCopy_succ (src dst n : Nat) :
    hostCopy src dst (n + 1) = .copyByte src dst :: hostCopy (src + 1) (dst + 1) n := by
  simp only [hostCopy, List.range_succ_eq_map, List.map_cons, List.map_map, Nat.add_zero, List.cons.injEq, true_and]
  refine List.map_congr_left fun i _ => ?_
  simp only [Function.comp, Nat.succ_eq_add_one, Nat.add_assoc, Nat.add_comm 1 i]

/-- The word a turn of COPY carries: the byte at `src`. -/
def copiedWord (src : Nat) (s : State) : Word := BitVec.ofNat 32 (leValue (memRead src 1 s))

theorem leBytes_copiedWord (src : Nat) (s : State) : leBytes 1 (copiedWord src s) = [s.byteAt src] :=
  leBytes_leValue (bs := memRead src 1 s) (by rw [memRead_length]; decide)

/-- The read of a turn of COPY: its write stands next on the host's list. -/
theorem hostStep_copyByte {src dst : Nat} {s : State} (hidle : s.busy = false) (hsrc : bufferByte s.params src = true)
    (hwin : src < windowSize) : hostStep (.copyByte src dst) s =
      .next { s with
        host := .write .w8 dst (copiedWord src s) :: s.host
        resps := { error := false, data := some (copiedWord src s) } :: s.resps } := by
  refine (if_neg (Nat.not_le.2 hwin)).trans ?_
  rw [hostCopyRead, busRead_buffer_idle hidle (ofOffset_eq_none_of_le (le_of_bufferByte hsrc)) (accessValid_byte hsrc)]
  rfl

/-- The write of a turn of COPY. -/
theorem hostStep_writeByte {dst : Nat} {s : State} (v : Word) (hidle : s.busy = false)
    (hdst : bufferByte s.params dst = true) (hwin : dst < windowSize) : hostStep (.write .w8 dst v) s =
      .next (respond (memWrite dst (leBytes 1 v) s, { error := false, data := none })) := by
  rw [hostStep_write v s hwin,
    busWrite_buffer_idle v hidle (ofOffset_eq_none_of_le (le_of_bufferByte hdst)) (accessValid_byte hdst)]
  rfl

/-- A whole turn of COPY: two steps, and the byte at `src` stored at `dst`. -/
theorem run_copyByte {src dst : Nat} {rest : List HostOp} {s : State} (hidle : s.busy = false)
    (hhost : s.host = .copyByte src dst :: rest) (hsrc : bufferByte s.params src = true)
    (hdst : bufferByte s.params dst = true) (hsrcWin : src < windowSize) (hdstWin : dst < windowSize) :
    ∃ t, (∀ k, Host.Core.run core (k + 2) s = Host.Core.run core k t) ∧ t.host = rest ∧ t.busy = false ∧
      t.params = s.params ∧ StoresAt s t dst [s.byteAt src] := by
  have hread := (step_eq_hostStep (.inl hidle) hhost).trans
    (hostStep_copyByte (dst := dst) (s := { s with host := rest, delay := s.delay - 1 }) hidle hsrc hsrcWin)
  generalize hu : ({ s with host := _, resps := _, delay := _ } : State) = u at hread
  have huIdle : u.busy = false := hu ▸ hidle
  have huHost : u.host = .write .w8 dst (copiedWord src s) :: rest := by rw [← hu]; rfl
  have hwrite := (step_eq_hostStep (.inl huIdle) huHost).trans
    (hostStep_writeByte (s := { u with host := rest, delay := u.delay - 1 }) _ huIdle
      (show bufferByte u.params dst = true from hu ▸ hdst) hdstWin)
  refine ⟨_, fun k => (run_succ hread).trans (run_succ hwrite), rfl, huIdle, ?_, ?_⟩
  · exact hu ▸ rfl
  · rw [leBytes_copiedWord]
    subst hu
    exact memWrite_storesAt s dst [s.byteAt src]

/-- The bytes of a range are unchanged by a byte stored outside it. -/
theorem memRead_of_storesAt {s t : State} {dst base n : Nat} {bs : List Byte} (h : StoresAt s t dst bs)
    (hout : base + n ≤ dst ∨ dst + bs.length ≤ base) : memRead base n t = memRead base n s :=
  memRead_congr fun i hi => h.2 _ (by omega)

/-- Settles O24, by induction on the number of bytes: the first turn's byte, then the rest. -/
theorem hostCopyCopiesBytes : Obligations.HostCopyCopiesBytes := by
  intro s src dst n
  induction n generalizing s src dst with
  | zero =>
    intro hidle hhost _ _ _ _
    exact ⟨s, rfl, hhost, hidle, fun i hi => absurd hi (Nat.not_lt_zero i), fun _ _ => rfl⟩
  | succ n ih =>
    intro hidle hhost hbytes hsrc hdst hapart
    rw [hostCopy_succ] at hhost
    obtain ⟨hb, hb'⟩ := hbytes 0 (Nat.succ_pos n)
    obtain ⟨t, hrun, htHost, htIdle, htParams, hfirst⟩ :=
      run_copyByte hidle hhost hb hb' (by omega) (by omega)
    obtain ⟨u, hrunU, huHost, huIdle, hrest⟩ := ih t (src + 1) (dst + 1) htIdle htHost
      (fun i hi => by
        have hi' := hbytes (i + 1) (by omega)
        rwa [htParams, Nat.add_right_comm src, Nat.add_right_comm dst])
      (by omega) (by omega) (by omega)
    have hsame : memRead (src + 1) n t = memRead (src + 1) n s :=
      memRead_of_storesAt hfirst (by rw [List.length_singleton]; omega)
    rw [hsame] at hrest
    refine ⟨u, (hrun (2 * n)).trans hrunU, huHost, huIdle, ?_⟩
    rw [memRead_succ]
    exact hfirst.append hrest

end Sys2Proof.Machine
end

section
/-! SUPPORT. The PES packet builder (R260 to R276): the timestamp fields in HDR, a packet by its bytes, and the branches of
PES_BUILD_AUDIO and PES_BUILD_VIDEO. The theorems settle O33, O34, O40, O41, O42, O43, O44 and O46. -/

namespace Sys2Proof.Machine

/-! ### Conforming sizes (R10) -/

theorem sizes_of_wf {p : Params} (h : p.wf = true) : 65541 ≤ p.inSize ∧ p.inSize ≤ 0x20000 ∧ 65541 ≤ p.outSize ∧
    188 * (p.inSize / 184 + 3) ≤ p.outSize ∧ p.outSize ≤ 0x40000 ∧ p.cfgSize ≤ 0x1000 := by
  simpa only [Params.wf, Bool.and_eq_true, decide_eq_true_eq, and_assoc] using h

/-! ### PESH_TSENC (R211) -/

/-- An error other than MalformedInput is not logged (R42, R441). -/
theorem raise_of_not_malformed {st : Status} (s : State) (h : st ≠ .malformedInput) :
    raise st s = { s with outLen := 0, err := st.code, busy := false, done := true } := by
  rw [raise_eq, if_neg h]

theorem timestampFields_error_ne_malformed {s : State} {p d : Bool} {e : Status}
    (h : timestampFields s p d = .error e) : e ≠ .malformedInput := by
  rcases timestampFields_error h with rfl | rfl | rfl <;> decide

/-- The HL of the provided timestamps (R211, R264). -/
theorem timestampBytes_hl (s : State) (p d : Bool) : BitVec.ofNat 8 (timestampBytes s p d).length =
    if p then (if d then 10 else 5) else (if d then 5 else 0) := by
  rw [timestampBytes_length]
  cases p <;> cases d <;> rfl

/-- Settles O33: HDR takes the fields that TimestampFields packs. -/
theorem peshTsencWritesTimestampFields : Obligations.PeshTsencWritesTimestampFields := by
  intro s hts
  refine ⟨_, rfl, ?_⟩
  rw [peshTsenc, timestampFields_ok s _ _ hts]
  refine ⟨?_, memWrite_storesAt s hdrOptBase _⟩
  rw [← timestampBytes_hl s]
  rfl

/-- Settles O34: PESH_TSENC raises what TimestampFields raises. -/
theorem peshTsencErrors : Obligations.PeshTsencErrors := by
  intro s e hraises
  have herr := timestampFields_raises s _ _ e hraises
  rw [← raise_of_not_malformed s (timestampFields_error_ne_malformed herr)]
  show Host.Outcome.next (peshTsenc s) = _
  rw [peshTsenc, herr]

/-! ### The packet (R260 to R262) -/

/-- The number of bytes after the length field (R261). -/
def packetLength (h : PesHdr) (payload : List Byte) : Nat := 3 + h.opt.length + payload.length

/-- The bytes of a packet one after the other (R260, R262). -/
def packetBytes (sid : Byte) (h : PesHdr) (payload : List Byte) : List Byte :=
  [0x00, 0x00, 0x01, sid, BitVec.ofNat 8 (packetLength h payload / 256), BitVec.ofNat 8 (packetLength h payload),
    h.f0, h.f1, h.hl] ++ h.opt ++ payload

/-- `PesPacket` by its one test (R261). -/
theorem pesPacket_eq (sid : Byte) (h : PesHdr) (payload : List Byte) : pesPacket sid h payload =
    if 65535 < packetLength h payload then .error .unrepresentableLength else .ok (packetBytes sid h payload) := by
  simp only [pesPacket, hdrBytes_length, be16_eq]
  rfl

theorem packetBytes_length (sid : Byte) (h : PesHdr) (payload : List Byte) :
    (packetBytes sid h payload).length = 6 + packetLength h payload := by
  simp only [packetBytes, packetLength, List.length_append, List.length_cons, List.length_nil]
  omega

/-- The end of a builder: the packet is emitted, or its length cannot be written (R270, R275). -/
def buildPacket (sid : Byte) (h : PesHdr) (payload : List Byte) (s : State) : State :=
  if 65535 < packetLength h payload then raise .unrepresentableLength s
  else complete .ok (emit (packetBytes sid h payload) s)

theorem buildPacket_of_long {sid : Byte} {h : PesHdr} {payload : List Byte} (s : State)
    (hlong : 65535 < packetLength h payload) : buildPacket sid h payload s = raise .unrepresentableLength s :=
  if_pos hlong

/-- What a packet that fits its length field leaves (R262). -/
theorem buildPacket_of_fits (sid : Byte) {h : PesHdr} {payload : List Byte} (s : State)
    (hfits : packetLength h payload ≤ 65535) :
    buildPacket sid h payload s = { s with
      mem := (buildPacket sid h payload s).mem
      outLen := BitVec.ofNat 32 (6 + packetLength h payload), err := 0, busy := false, done := true } ∧
    StoresAt s (buildPacket sid h payload s) outBase (packetBytes sid h payload) := by
  rw [buildPacket, if_neg (Nat.not_lt.2 hfits), ← packetBytes_length sid]
  exact complete_emit_spec _ s

/-! ### PES_BUILD_AUDIO (R270) -/

theorem audioPayload_length (s : State) : (audioPayload s).length = s.params.audioHdrLen + s.inLen.toNat := by
  rw [audioPayload, List.length_append, input_length, audioHdr, List.length_map, List.length_range]

theorem pesBuildAudio_of_inLenTooLarge {s : State} (h : s.params.inSize < s.inLen.toNat) :
    pesBuildAudio s = raise .invalidOperand s := if_pos ((inLenTooLarge_iff s).2 h)

theorem pesBuildAudio_of_unconfigured {s : State} (hin : s.inLen.toNat ≤ s.params.inSize) (hcfg : s.cfgV = false) :
    pesBuildAudio s = raise .missingConfiguration s := by
  rw [pesBuildAudio, if_neg (mt (inLenTooLarge_iff s).1 (Nat.not_lt.2 hin)), if_pos hcfg]

theorem pesBuildAudio_of_timestamp_error {s : State} {e : Status} (hin : s.inLen.toNat ≤ s.params.inSize)
    (hcfg : s.cfgV = true) (hts : timestampFields s s.ptsV false = .error e) : pesBuildAudio s = raise e s := by
  rw [pesBuildAudio, if_neg (mt (inLenTooLarge_iff s).1 (Nat.not_lt.2 hin)), if_neg (by rw [hcfg]; decide), hts]

theorem pesBuildAudio_of_timestamps {s : State} {ind : BitVec 2} {opt : List Byte} (hin : s.inLen.toNat ≤ s.params.inSize)
    (hcfg : s.cfgV = true) (hts : timestampFields s s.ptsV false = .ok (ind, opt)) :
    pesBuildAudio s = buildPacket s.streamId (audioHeader ind opt) (audioPayload s) s := by
  rw [pesBuildAudio, if_neg (mt (inLenTooLarge_iff s).1 (Nat.not_lt.2 hin)), if_neg (by rw [hcfg]; decide), hts]
  simp only [pesPacket_eq, buildPacket]
  split_ifs <;> rfl

/-- The length of the audio packet (R261, R264). -/
theorem packetLength_audio (s : State) (ind : BitVec 2) (opt : List Byte) :
    packetLength (audioHeader ind opt) (audioPayload s) =
      3 + opt.length + s.params.audioHdrLen + s.inLen.toNat := by
  rw [packetLength, audioPayload_length, audioHeader, ← Nat.add_assoc]

/-- Settles O40. -/
theorem pesBuildAudioEmitsPacket : Obligations.PesBuildAudioEmitsPacket := by
  intro s opt len hin hcfg hts hfits
  have hlen := packetLength_audio s (indicatorBits s.ptsV false) opt
  have hspec := buildPacket_of_fits s.streamId s (hlen.trans_le hfits)
  rw [← pesBuildAudio_of_timestamps hin hcfg (timestampFields_ok s _ _ hts), packetBytes, hlen] at hspec
  have hhl : (audioHeader (indicatorBits s.ptsV false) opt).hl = if s.ptsV then 5 else 0 :=
    timestampBytes_hl s s.ptsV false
  obtain ⟨hregs, hbytes⟩ := hspec
  rw [hhl, audioPayload, ← List.append_assoc] at hbytes
  exact ⟨_, rfl, hregs, hbytes⟩

/-- Settles O41, in the order of the tests. -/
theorem pesBuildAudioErrors : Obligations.PesBuildAudioErrors := by
  intro s e herr
  have hraise : e ≠ .malformedInput ∧ pesBuildAudio s = raise e s := by
    rcases herr with ⟨rfl, hlarge⟩ | ⟨rfl, hin, hcfg⟩ | ⟨hin, hcfg, hts⟩ | ⟨rfl, hin, hcfg, hts, hlong⟩
    · exact ⟨by decide, pesBuildAudio_of_inLenTooLarge hlarge⟩
    · exact ⟨by decide, pesBuildAudio_of_unconfigured hin hcfg⟩
    · have hfields := timestampFields_raises s _ _ e hts
      exact ⟨timestampFields_error_ne_malformed hfields, pesBuildAudio_of_timestamp_error hin hcfg hfields⟩
    · refine ⟨by decide, (pesBuildAudio_of_timestamps hin hcfg (timestampFields_ok s _ _ hts)).trans ?_⟩
      exact buildPacket_of_long s (by rwa [packetLength_audio])
  rw [← raise_of_not_malformed s hraise.1, ← hraise.2]
  rfl

/-! ### PES_BUILD_VIDEO (R275) -/

/-- The two operand tests of PES_BUILD_VIDEO do not fail (R38, R53, R432). -/
def VideoOperandsFit (s : State) : Prop :=
  s.inLen.toNat ≤ s.params.inSize ∧ (s.cfgV = true → s.spsLen.toNat + s.ppsLen.toNat ≤ s.params.cfgSize)

theorem pesBuildVideo_of_operands {s : State} (h : ¬VideoOperandsFit s) :
    pesBuildVideo s = raise .invalidOperand s := by
  rw [pesBuildVideo, ← ite_or, if_pos]
  rw [inLenTooLarge_iff]
  by_contra hno
  obtain ⟨hin, hcfg⟩ := not_or.1 hno
  exact h ⟨Nat.not_lt.1 hin, fun hv => Nat.not_lt.1 fun hlt => hcfg ⟨hv, hlt⟩⟩

theorem VideoOperandsFit.not_inLenTooLarge {s : State} (h : VideoOperandsFit s) : ¬s.inLenTooLarge = true :=
  mt (inLenTooLarge_iff s).1 (Nat.not_lt.2 h.1)

theorem VideoOperandsFit.not_cfgTooLarge {s : State} (h : VideoOperandsFit s) :
    ¬(s.cfgV = true ∧ s.params.cfgSize < s.spsLen.toNat + s.ppsLen.toNat) :=
  fun hlarge => Nat.not_lt.2 (h.2 hlarge.1) hlarge.2

theorem pesBuildVideo_of_timestamp_error {s : State} {e : Status} (hfit : VideoOperandsFit s)
    (hts : timestampFields s s.ptsV s.dtsV = .error e) : pesBuildVideo s = raise e s := by
  rw [pesBuildVideo, if_neg hfit.not_inLenTooLarge, if_neg hfit.not_cfgTooLarge, hts]

theorem pesBuildVideo_of_noFrame {s : State} {ind : BitVec 2} {opt : List Byte} (hfit : VideoOperandsFit s)
    (hts : timestampFields s s.ptsV s.dtsV = .ok (ind, opt)) (hframe : annexB s.input = none) :
    pesBuildVideo s = raise .malformedInput s := by
  rw [pesBuildVideo, if_neg hfit.not_inLenTooLarge, if_neg hfit.not_cfgTooLarge, hts]
  simp only [hframe]

theorem pesBuildVideo_of_frame {s : State} {ind : BitVec 2} {opt frame : List Byte} (hfit : VideoOperandsFit s)
    (hts : timestampFields s s.ptsV s.dtsV = .ok (ind, opt)) (hframe : annexB s.input = some frame) :
    pesBuildVideo s = buildPacket s.streamId (videoHeader s.params ind opt) (videoPreamble s ++ frame) s := by
  rw [pesBuildVideo, if_neg hfit.not_inLenTooLarge, if_neg hfit.not_cfgTooLarge, hts]
  simp only [hframe, pesPacket_eq, buildPacket]
  split_ifs <;> rfl

/-- The bytes in front of the frame, counted (R272). -/
theorem videoPreamble_length (s : State) : (videoPreamble s).length =
    if s.cfgV then s.params.audIdr.length + 8 + s.spsLen.toNat + s.ppsLen.toNat else s.params.audNonIdr.length := by
  unfold videoPreamble
  split_ifs
  · simp only [List.length_append, memRead_length, show annexBStartCode.length = 4 from rfl]
    omega
  · rfl

/-- The input is a frame of these NAL units (R273). -/
theorem annexB_input {s : State} {nals : List (List Byte)} (hfit : nalsFit nals)
    (hinput : memRead inBase s.inLen.toNat s = avccFrame nals) : annexB s.input = some (startCodeFrame nals) :=
  (annexB_eq_some_iff _ _).2 ⟨nals, hfit, hinput, rfl⟩

/-- A frame with start codes is as long as the input (R273). -/
theorem frame_length {s : State} {nals : List (List Byte)}
    (hinput : memRead inBase s.inLen.toNat s = avccFrame nals) : (startCodeFrame nals).length = s.inLen.toNat := by
  rw [startCodeFrame_length, ← hinput, memRead_length]

/-- The length of the video packet (R261, R274). -/
theorem packetLength_video {s : State} {nals : List (List Byte)} (ind : BitVec 2) (opt : List Byte)
    (hinput : memRead inBase s.inLen.toNat s = avccFrame nals) :
    packetLength (videoHeader s.params ind opt) (videoPreamble s ++ startCodeFrame nals) =
      3 + opt.length + (videoPreamble s).length + s.inLen.toNat := by
  rw [packetLength, List.length_append, frame_length hinput, ← Nat.add_assoc]
  rfl

/-- Settles O42. -/
theorem pesBuildVideoEmitsPacket : Obligations.PesBuildVideoEmitsPacket := by
  intro s nals opt pre len hin hcfg hts hnals hinput hfits
  have hlen := packetLength_video (indicatorBits s.ptsV s.dtsV) opt hinput
  have hspec := buildPacket_of_fits s.streamId s (hlen.trans_le hfits)
  rw [← pesBuildVideo_of_frame ⟨hin, hcfg⟩ (timestampFields_ok s _ _ hts) (annexB_input hnals hinput), packetBytes, hlen] at hspec
  have hhl : (videoHeader s.params (indicatorBits s.ptsV s.dtsV) opt).hl =
      if s.ptsV then (if s.dtsV then 10 else 5) else (if s.dtsV then 5 else 0) := timestampBytes_hl s s.ptsV s.dtsV
  obtain ⟨hregs, hbytes⟩ := hspec
  rw [hhl, ← List.append_assoc] at hbytes
  exact ⟨_, rfl, hregs, hbytes⟩

/-- An input that is no sequence of NAL units is not repackaged (R273). -/
theorem annexB_input_eq_none {s : State}
    (h : ¬∃ nals, nalsFit nals ∧ memRead inBase s.inLen.toNat s = avccFrame nals) : annexB s.input = none := by
  cases hframe : annexB s.input with
  | none => rfl
  | some frame =>
    obtain ⟨nals, hnals, hinput, -⟩ := (annexB_eq_some_iff _ _).1 hframe
    exact absurd ⟨nals, hnals, hinput⟩ h

/-- Settles O43, in the order of the tests. -/
theorem pesBuildVideoErrors : Obligations.PesBuildVideoErrors := by
  intro s e operandsFit preLength herr
  have hraise : pesBuildVideo s = raise e s := by
    rcases herr with ⟨rfl, hno⟩ | ⟨hfit, hts⟩ | ⟨rfl, hfit, hts, hno⟩ | ⟨rfl, hfit, hts, ⟨nals, hnals, hinput⟩, hlong⟩
    · exact pesBuildVideo_of_operands hno
    · exact pesBuildVideo_of_timestamp_error hfit (timestampFields_raises s _ _ e hts)
    · exact pesBuildVideo_of_noFrame hfit (timestampFields_ok s _ _ hts) (annexB_input_eq_none hno)
    · rw [pesBuildVideo_of_frame hfit (timestampFields_ok s _ _ hts) (annexB_input hnals hinput)]
      refine buildPacket_of_long s ?_
      rw [packetLength_video _ _ hinput, videoPreamble_length]
      exact hlong
  rw [show exec .pesBuildVideo s = .next (pesBuildVideo s) from rfl, hraise, raise_eq]

/-! ### Access units of 70000 bytes or more (R276) -/

/-- The two builders raise when the payload alone exceeds the length field, if nothing before raises. -/
theorem pesBuildAudio_overlong {s : State} (h : 70000 ≤ s.inLen.toNat) :
    ∃ st, st ≠ .ok ∧ pesBuildAudio s = raise st s := by
  by_cases hin : s.inLen.toNat ≤ s.params.inSize
  case neg => exact ⟨_, by decide, pesBuildAudio_of_inLenTooLarge (Nat.not_le.1 hin)⟩
  cases hcfg : s.cfgV with
  | false => exact ⟨_, by decide, pesBuildAudio_of_unconfigured hin hcfg⟩
  | true =>
    cases hts : timestampFields s s.ptsV false with
    | error e => exact ⟨e, timestampFields_error_ne_ok hts, pesBuildAudio_of_timestamp_error hin hcfg hts⟩
    | ok fields =>
      refine ⟨.unrepresentableLength, by decide, (pesBuildAudio_of_timestamps hin hcfg hts).trans ?_⟩
      refine buildPacket_of_long s ?_
      rw [packetLength_audio]
      omega

theorem pesBuildVideo_overlong {s : State} (h : 70000 ≤ s.inLen.toNat) :
    ∃ st, st ≠ .ok ∧ pesBuildVideo s = raise st s := by
  by_cases hfit : VideoOperandsFit s
  case neg => exact ⟨_, by decide, pesBuildVideo_of_operands hfit⟩
  cases hts : timestampFields s s.ptsV s.dtsV with
  | error e => exact ⟨e, timestampFields_error_ne_ok hts, pesBuildVideo_of_timestamp_error hfit hts⟩
  | ok fields =>
    by_cases hframe : ∃ nals, nalsFit nals ∧ memRead inBase s.inLen.toNat s = avccFrame nals
    · obtain ⟨nals, hnals, hinput⟩ := hframe
      refine ⟨.unrepresentableLength, by decide, (pesBuildVideo_of_frame hfit hts (annexB_input hnals hinput)).trans ?_⟩
      refine buildPacket_of_long s ?_
      rw [packetLength_video _ _ hinput]
      omega
    · exact ⟨_, by decide, pesBuildVideo_of_noFrame hfit hts (annexB_input_eq_none hframe)⟩

/-- An error gives no packet (R441). -/
theorem raise_noPacket {st : Status} (s : State) (h : st ≠ .ok) :
    (raise st s).err ≠ 0 ∧ (raise st s).outLen = 0 ∧ (raise st s).mem = s.mem :=
  ⟨mt (code_eq_zero_iff st).1 h, rfl, rfl⟩

/-- Settles O44: each builder raises; with every earlier test passed it is the last that fails. -/
theorem overlongAccessUnitsGiveNoPacket : Obligations.OverlongAccessUnitsGiveNoPacket := by
  intro s h
  obtain ⟨sa, hsa, hea⟩ := pesBuildAudio_overlong h
  obtain ⟨sv, hsv, hev⟩ := pesBuildVideo_overlong h
  obtain ⟨haErr, haLen, haMem⟩ := raise_noPacket s hsa
  obtain ⟨hvErr, hvLen, hvMem⟩ := raise_noPacket s hsv
  refine ⟨⟨_, congrArg Host.Outcome.next hea, haErr, haLen, haMem, fun hin hcfg hts => ?_⟩,
    _, congrArg Host.Outcome.next hev, hvErr, hvLen, hvMem, fun hin hcfg hts ⟨nals, hnals, hinput⟩ => ?_⟩
  · rw [← hea, pesBuildAudio_of_timestamps hin hcfg (timestampFields_ok s _ _ hts),
      buildPacket_of_long s (by rw [packetLength_audio]; omega)]
    rfl
  · rw [← hev, pesBuildVideo_of_frame ⟨hin, hcfg⟩ (timestampFields_ok s _ _ hts) (annexB_input hnals hinput),
      buildPacket_of_long s (by rw [packetLength_video _ _ hinput]; omega)]
    rfl

/-! ### PES_DEC of a built packet (R262, R280) -/

/-- The parts of a packet by position. -/
theorem packetBytes_parts (sid : Byte) (h : PesHdr) (payload : List Byte) :
    (packetBytes sid h payload).take 3 = startCode ∧ (packetBytes sid h payload).getD 3 0 = sid ∧
      ((packetBytes sid h payload).drop 4).take 2 = be16 (packetLength h payload) ∧
      (packetBytes sid h payload).drop 6 = hdrBytes h ++ payload ∧
      (packetBytes sid h payload).drop (9 + h.opt.length) = payload := by
  refine ⟨rfl, rfl, (be16_eq _).symm, rfl, ?_⟩
  rw [← List.drop_drop]
  exact List.drop_left

theorem beValue_be16 {n : Nat} (h : n ≤ 65535) : beValue (be16 n) = n := by
  rw [be16_eq]
  simp only [beValue, List.foldl_cons, List.foldl_nil, BitVec.toNat_ofNat]
  omega

/-- PES_DEC of a loaded packet: the header and the payload are stored after the two fixed fields. -/
theorem pesDec_packetBytes {s : State} {sid : Byte} {h : PesHdr} {payload : List Byte} (hwf : s.params.wf = true)
    (hopt : h.opt.length = h.hl.toNat) (hfits : packetLength h payload ≤ 65535) :
    pesDec (withInput (packetBytes sid h payload) s) = complete .ok (emit payload (writeHdr h
      { withInput (packetBytes sid h payload) s with
        pesdSid := sid, pesdLen := BitVec.ofNat 16 (packetLength h payload) })) := by
  obtain ⟨htake, hsid, hlen, hrest, hpayload⟩ := packetBytes_parts sid h payload
  have hcount := packetBytes_length sid h payload
  have hlt : (packetBytes sid h payload).length < 2 ^ 32 := by omega
  have hinLen := withInput_inLen s hlt
  have hinput := input_withInput s hlt
  have hsize := (sizes_of_wf hwf).1
  have hstarts : PacketStarts (withInput (packetBytes sid h payload) s) := by
    refine ⟨?_, ?_, ?_⟩
    · rw [hinLen, withInput_params]
      omega
    · rw [← memRead_take inBase _ 3 _ (by rw [hcount]; omega : 3 ≤ (packetBytes sid h payload).length)]
      exact (congrArg (List.take 3) (memRead_memWrite s inBase _)).trans htake
    · rw [hinLen]
      omega
  rw [pesDec_of_parseHdr (hdr := h) hstarts (by rw [hinput, hrest]; exact parseHdr_hdrBytes h payload hopt),
    storePacketFields_eq hstarts.fixed, hinput, hsid, hlen, beValue_be16 hfits, ← hopt, hpayload]

/-- What a successful command has left in HDR and in OUT_BUF when it stored `h` and emitted `payload`. -/
theorem complete_emit_writeHdr_reads {h : PesHdr} {payload : List Byte} (u : State) (hopt : h.opt.length = h.hl.toNat)
    (hlt : payload.length < 2 ^ 32) :
    memRead hdrOptBase h.hl.toNat (complete .ok (emit payload (writeHdr h u))) = h.opt ∧
      (complete .ok (emit payload (writeHdr h u))).outLen.toNat = payload.length ∧
      memRead outBase payload.length (complete .ok (emit payload (writeHdr h u))) = payload := by
  obtain ⟨hhdr, -, -⟩ := emit_writeHdr_bytes payload u hopt
  refine ⟨List.ext_getElem ((memRead_length _ _ _).trans hopt.symm) fun k hk hk' => ?_, ofNat_toNat_of_lt hlt,
    memRead_complete_emit _ _⟩
  rw [← List.getD_eq_getElem _ 0 hk, ← List.getD_eq_getElem _ 0 hk', memRead_getD _ _ _ _ (hopt ▸ hk')]
  exact hhdr k (hopt ▸ hk')

/-- Settles O46. -/
theorem pesPacketRoundTrip : Obligations.PesPacketRoundTrip := by
  intro s sid h payload pkt hwf hopt hpkt
  rw [pesPacket_eq] at hpkt
  split_ifs at hpkt with hlong
  have hfits := Nat.not_lt.1 hlong
  obtain rfl := Except.ok.inj hpkt
  have hpayload : payload.length ≤ packetLength h payload := Nat.le_add_left _ _
  have hlen : (BitVec.ofNat 16 (packetLength h payload)).toNat = (packetBytes sid h payload).length - 6 := by
    rw [packetBytes_length, Nat.add_sub_cancel_left]
    exact ofNat_toNat_of_lt (by omega)
  have hdec := pesDec_packetBytes (sid := sid) hwf hopt hfits
  have hdiag : (withInput (packetBytes sid h payload) s).diag = s.diag := rfl
  generalize withInput (packetBytes sid h payload) s = u at hdec hdiag
  obtain ⟨hhdr, houtLen, hout⟩ := complete_emit_writeHdr_reads
    { u with pesdSid := sid, pesdLen := BitVec.ofNat 16 (packetLength h payload) } hopt
    (payload := payload) (by omega)
  exact ⟨_, congrArg Host.Outcome.next hdec, rfl, hdiag, rfl, hlen, rfl, hhdr, houtLen, hout⟩

end Sys2Proof.Machine
end

section
/-! SUPPORT. TS_SEGMENT as a whole (R322, R325, R330, R333): the end of the finite-state machine and the state after it. The
theorems settle O54 and O55. -/

namespace Sys2Proof.Machine

/-- Settles O55, from the machine's last state in closed form. -/
theorem segmentationFsmReachesEnd : Obligations.SegmentationFsmReachesEnd := by
  intro c cc
  have hend := segment_eq c cc
  exact ⟨congrArg Seg.st hend, congrArg Seg.k hend, congrArg Seg.pos hend, segment_out_length c cc,
    fun _ => segment_packet_length c cc⟩

/-- An empty payload does not advance the counter with its one packet (R325). -/
theorem segFirstNextCc_of_nil (c : SegCtx) (cc : BitVec 4) (h : c.payload.length = 0) : segFirstNextCc c cc = cc := by
  rw [segFirstNextCc, fill_first]
  exact if_neg (by rw [h]; exact Bool.false_ne_true)

theorem segCount_zero (pcr : Bool) : segCount 0 pcr = 1 := by cases pcr <;> rfl

theorem segCount_pos (len : Nat) (pcr : Bool) : 0 < segCount len pcr := by
  unfold segCount
  dsimp only
  omega

/-- The counter has advanced by the packets with payload: none of an empty payload, else all (R325, R330). -/
theorem segment_cc (c : SegCtx) (cc : BitVec 4) : (segment c cc).cc =
    cc + BitVec.ofNat 4 (if c.payload.length = 0 then 0 else segCount c.payload.length c.pcrV) := by
  rw [congrArg Seg.cc (segment_eq c cc)]
  split_ifs with hnil
  · rw [segFirstNextCc_of_nil c cc hnil, hnil, segCount_zero]
  · have hpos := segCount_pos c.payload.length c.pcrV
    rw [segFirstNextCc_of_ne_nil c cc hnil, BitVec.add_assoc, show (1 : BitVec 4) = BitVec.ofNat 4 1 from rfl,
      ← BitVec.ofNat_add, Nat.add_sub_cancel' hpos]

/-- The packets in a row have 188 bytes each (R320). -/
theorem segment_flatten_length (s : State) :
    (segment s.segCtx s.tsh.cc).out.flatten.length = 188 * segCount s.inLen.toNat s.pcrV := by
  rw [flatten_length 188 _ fun _ => segment_packet_length _ _, segCtx_packetCount]

/-- The registers TS_SEGMENT writes, and the packets in OUT_BUF (R330). -/
theorem segmentedState_spec (s : State) :
    let n := segCount s.inLen.toNat s.pcrV
    segmentedState s = { s with
      mem := (segmentedState s).mem, outLen := BitVec.ofNat 32 (188 * n), pktCount := BitVec.ofNat 32 n
      tsh := { s.tsh with cc := s.tsh.cc + BitVec.ofNat 4 (if s.inLen.toNat = 0 then 0 else n) }
      err := 0, busy := false, done := true } ∧
    StoresAt s (segmentedState s) outBase (segment s.segCtx s.tsh.cc).out.flatten := by
  refine ⟨?_, memWrite_storesAt s outBase _⟩
  have hcc := segment_cc s.segCtx s.tsh.cc
  rw [segCtx_payload_length, show s.segCtx.pcrV = s.pcrV from rfl] at hcc
  rw [← hcc, ← segment_flatten_length]
  rfl

/-- Settles O54, by the two tests of TS_SEGMENT. -/
theorem tsSegmentCompletes : Obligations.TsSegmentCompletes := by
  intro s
  refine ⟨tsSegment s, rfl, ?_⟩
  intro n
  rw [tsSegment_eq]
  by_cases hlarge : s.params.inSize < s.inLen.toNat
  · rw [if_pos hlarge, if_pos hlarge]
    exact raise_eq .invalidOperand _
  rw [if_neg hlarge, if_neg hlarge]
  by_cases hover : s.params.outSize < 188 * n
  · rw [if_pos hover, if_pos hover]
    exact raise_eq .bufferOverflow _
  · rw [if_neg hover, if_neg hover]
    obtain ⟨hregs, -, hframe⟩ := segmentedState_spec s
    rw [segment_flatten_length] at hframe
    exact ⟨hregs, hframe⟩

end Sys2Proof.Machine
end

section
/-! SUPPORT. What a command may have written when it is over (R146, R440): registers by the table of R146, HDR_OPT and OUT_BUF
by the byte strings it stored. The theorems settle O25 and O26. -/

namespace Sys2Proof.Machine

/-! ### The results of a command -/

/-- The buffers of `t`, as command `i` may leave them when it starts from `s`: untouched, or with a header of HL bytes in
HDR_OPT (R201), an output of OUT_LEN bytes in OUT_BUF (R23), or both stored. -/
inductive BuffersWritten (i : Instr) (s t : State) : Prop where
  | kept (hmem : t.mem = s.mem) (hlen : t.outLen = 0)
  | header (bs : List Byte) (hi : i.writesHdrOpt = true) (herr : t.err = 0) (hhl : bs.length = t.hdrCtrl.hl.toNat)
      (hmem : t.mem = Memory.store s.mem hdrOptBase bs) (hlen : t.outLen = 0)
  | output (bs : List Byte) (hi : i.emits = true) (herr : t.err = 0) (hlen : t.outLen = BitVec.ofNat 32 bs.length)
      (hfit : s.params.wf = true → bs.length ≤ s.params.outSize) (hmem : t.mem = Memory.store s.mem outBase bs)
  | both (hdr bs : List Byte) (hi : i.writesHdrOpt = true) (hi' : i.emits = true) (herr : t.err = 0)
      (hhl : hdr.length = t.hdrCtrl.hl.toNat) (hlen : t.outLen = BitVec.ofNat 32 bs.length)
      (hfit : s.params.wf = true → bs.length ≤ s.params.outSize)
      (hmem : t.mem = Memory.store (Memory.store s.mem hdrOptBase hdr) outBase bs)

/-- Command `i` from `s` is over in `t`, with no write outside its row of R146. -/
structure CommandResult (i : Instr) (s t : State) : Prop where
  regs : t = takeWritten i s t
  busy : t.busy = false
  done : t.done = true
  err_le : t.err.toNat ≤ 9
  buffers : BuffersWritten i s t

/-- PESH_TSENC writes PTS_DTS and HL of HDR_CTRL (R211). -/
theorem withPtsDts_ptsDts (h : HdrCtrl) (ind : BitVec 2) : (h.withPtsDts ind).ptsDts = ind := by
  refine BitVec.eq_of_getLsbD_eq fun k hk => ?_
  simp only [HdrCtrl.ptsDts, HdrCtrl.withPtsDts, BitVec.getLsbD_extractLsb', BitVec.getLsbD_append]
  simp [hk]

theorem hdrCtrlWritten_peshTsenc (h : HdrCtrl) (ind : BitVec 2) (hl : Byte) :
    hdrCtrlWritten h { h.withPtsDts ind with hl := hl } .peshTsenc = { h.withPtsDts ind with hl := hl } := by
  show ({ h.withPtsDts (h.withPtsDts ind).ptsDts with hl := hl } : HdrCtrl) = _
  rw [withPtsDts_ptsDts]

theorem withPtsDts_self (h : HdrCtrl) : h.withPtsDts h.ptsDts = h := by
  have hf1 : h.f1.extractLsb' 6 2 ++ h.f1.extractLsb' 0 6 = h.f1 := by
    refine BitVec.eq_of_getLsbD_eq fun k hk => ?_
    rw [BitVec.getLsbD_append, BitVec.getLsbD_extractLsb', BitVec.getLsbD_extractLsb']
    interval_cases k <;> simp
  rw [HdrCtrl.withPtsDts, HdrCtrl.ptsDts, hf1]

/-- A command that leaves HDR_CTRL as it was has written no field of it. -/
theorem hdrCtrlWritten_self (h : HdrCtrl) (i : Instr) : hdrCtrlWritten h h i = h := by
  cases i
  case peshTsenc => exact congrArg (fun g : HdrCtrl => { g with hl := h.hl }) (withPtsDts_self h)
  all_goals rfl

/-- The writes of an error lie in the command's row, and only the commands that log end with MalformedInput (R42, R441). -/
theorem CommandResult.raised {i : Instr} {st : Status} (s : State) (h : st = .malformedInput → i.logs = true) :
    CommandResult i s (raise st (errorWrites i st s)) where
  regs := by
    have hdiag : i.logs = false → st ≠ .malformedInput := fun hno heq => by simp [h heq] at hno
    rw [raise_eq]
    cases i
    case peshDec | tsHdrDec | tsPktDec => by_cases hst : st = .malformedInput <;> simp only [errorWrites, hst] <;> rfl
    case pesBuildVideo | pesDec => rfl
    case peshTsenc =>
      simp only [if_neg (hdiag rfl), errorWrites, takeWritten, hdrCtrlWritten_self]
      rfl
    all_goals
      simp only [if_neg (hdiag rfl)]
      rfl
  busy := rfl
  done := rfl
  err_le := code_le st
  buffers := by
    refine .kept ?_ rfl
    rw [raise_mem]
    cases i
    case peshDec | tsHdrDec | tsPktDec =>
      simp only [errorWrites]
      split <;> rfl
    all_goals rfl

/-- A command that only emits. -/
theorem CommandResult.emitted {i : Instr} {s u : State} {bs : List Byte} (hi : i.emits = true) (hmem : u.mem = s.mem)
    (hfit : s.params.wf = true → bs.length ≤ s.params.outSize)
    (hregs : complete .ok (emit bs u) = takeWritten i s (complete .ok (emit bs u))) :
    CommandResult i s (complete .ok (emit bs u)) where
  regs := hregs
  busy := rfl
  done := rfl
  err_le := code_le .ok
  buffers := .output bs hi rfl rfl hfit (by rw [← hmem]; rfl)

/-! ### The result of each command -/

theorem peshTsenc_result (s : State) : CommandResult .peshTsenc s (peshTsenc s) := by
  unfold peshTsenc
  split
  next e herr => exact .raised (i := .peshTsenc) s fun h => absurd h (timestampFields_error_ne_malformed herr)
  next ind opt hok =>
    have hlen := timestampFields_length hok
    refine ⟨?_, rfl, rfl, code_le .ok, .header opt rfl rfl ?_ rfl rfl⟩
    · simp only [takeWritten, complete_hdrCtrl, hdrCtrlWritten_peshTsenc]
      rfl
    · exact (ofNat_toNat_of_lt (by omega)).symm

theorem outSize_ge_of_wf {p : Params} {n : Nat} (hn : n ≤ 65541) (h : p.wf = true) : n ≤ p.outSize :=
  hn.trans (sizes_of_wf h).2.2.1

theorem ts5Enc_result (pfx : Nat) (s : State) : CommandResult (.ts5Enc pfx) s (ts5Enc pfx s) := by
  unfold ts5Enc
  split
  · exact .raised (i := .ts5Enc pfx) (st := .invalidOperand) s nofun
  · exact .emitted rfl rfl (outSize_ge_of_wf (by rw [ts5_length]; decide)) rfl

theorem peshEnc_result (s : State) : CommandResult .peshEnc s (peshEnc s) := by
  refine .emitted rfl rfl (outSize_ge_of_wf ?_) rfl
  have hhl := s.hdr.hl.isLt
  rw [hdrBytes_length, hdr_opt_length]
  omega

theorem peshDec_result (s : State) : CommandResult .peshDec s (peshDec s) := by
  unfold peshDec
  split
  · exact .raised (i := .peshDec) (st := .invalidOperand) s nofun
  · split
    next h hparse => exact ⟨rfl, rfl, rfl, code_le .ok, .header h.opt rfl rfl (parseHdr_length hparse).1 rfl rfl⟩
    next => exact .raised (i := .peshDec) (st := .malformedInput) s fun _ => rfl

theorem buildPacket_result {i : Instr} (hi : i.emits = true) (sid : Byte) (h : PesHdr) (payload : List Byte) (s : State)
    (hraise : errorWrites i .unrepresentableLength s = s)
    (hregs : complete .ok (emit (packetBytes sid h payload) s) =
      takeWritten i s (complete .ok (emit (packetBytes sid h payload) s))) :
    CommandResult i s (buildPacket sid h payload s) := by
  unfold buildPacket
  split_ifs with hlong
  · have hresult := CommandResult.raised (i := i) (st := .unrepresentableLength) s nofun
    rwa [hraise] at hresult
  · refine .emitted hi rfl (outSize_ge_of_wf ?_) hregs
    rw [packetBytes_length]
    omega

theorem pesBuildAudio_result (s : State) : CommandResult .pesBuildAudio s (pesBuildAudio s) := by
  by_cases hin : s.inLen.toNat ≤ s.params.inSize
  case neg =>
    rw [pesBuildAudio_of_inLenTooLarge (Nat.not_le.1 hin)]
    exact .raised (i := .pesBuildAudio) s nofun
  cases hcfg : s.cfgV with
  | false =>
    rw [pesBuildAudio_of_unconfigured hin hcfg]
    exact .raised (i := .pesBuildAudio) s nofun
  | true =>
    cases hts : timestampFields s s.ptsV false with
    | error e =>
      rw [pesBuildAudio_of_timestamp_error hin hcfg hts]
      exact .raised (i := .pesBuildAudio) s fun h => absurd h (timestampFields_error_ne_malformed hts)
    | ok fields =>
      rw [pesBuildAudio_of_timestamps hin hcfg hts]
      exact buildPacket_result rfl _ _ _ s rfl rfl

theorem pesBuildVideo_result (s : State) : CommandResult .pesBuildVideo s (pesBuildVideo s) := by
  by_cases hfit : VideoOperandsFit s
  case neg =>
    rw [pesBuildVideo_of_operands hfit]
    exact .raised (i := .pesBuildVideo) s nofun
  cases hts : timestampFields s s.ptsV s.dtsV with
  | error e =>
    rw [pesBuildVideo_of_timestamp_error hfit hts]
    exact .raised (i := .pesBuildVideo) s fun _ => rfl
  | ok fields =>
    cases hframe : annexB s.input with
    | none =>
      rw [pesBuildVideo_of_noFrame hfit hts hframe]
      exact .raised (i := .pesBuildVideo) s fun _ => rfl
    | some frame =>
      rw [pesBuildVideo_of_frame hfit hts hframe]
      exact buildPacket_result rfl _ _ _ s rfl rfl

/-- A part of an input that is in range fits OUT_BUF (R10). -/
theorem input_drop_length_le {s : State} (k : Nat) (hin : s.inLen.toNat ≤ s.params.inSize) (h : s.params.wf = true) :
    (s.input.drop k).length ≤ s.params.outSize := by
  obtain ⟨-, -, -, hsize, -⟩ := sizes_of_wf h
  rw [List.length_drop, input_length]
  omega

/-- PES_DEC when it stores a header and a payload (R280). -/
theorem CommandResult.decoded {s : State} {h : PesHdr} {bs : List Byte} (hopt : h.opt.length = h.hl.toNat)
    (hfit : s.params.wf = true → bs.length ≤ s.params.outSize) :
    CommandResult .pesDec s (complete .ok (emit bs (writeHdr h (storePacketFields s)))) := by
  have hregs := complete_emit_writeHdr_eq bs h (storePacketFields s)
  have hmem : (complete .ok (emit bs (writeHdr h (storePacketFields s)))).mem =
      Memory.store (Memory.store s.mem hdrOptBase h.opt) outBase bs := rfl
  generalize complete .ok (emit bs (writeHdr h (storePacketFields s))) = t at hregs hmem ⊢
  rw [hmem] at hregs
  subst hregs
  exact ⟨rfl, rfl, rfl, code_le .ok, .both h.opt bs rfl rfl rfl hopt rfl hfit rfl⟩

/-- PES_DEC may also log (R283). -/
theorem CommandResult.logged {s t : State} (st : Status) (h : CommandResult .pesDec s t) :
    CommandResult .pesDec s (logEvent st t) where
  regs := congrArg (logEvent st) h.regs
  busy := h.busy
  done := h.done
  err_le := h.err_le
  buffers := by
    cases h.buffers with
    | kept hmem hlen => exact .kept hmem hlen
    | header bs hi herr hhl hmem hlen => exact .header bs hi herr hhl hmem hlen
    | output bs hi herr hlen hfit hmem => exact .output bs hi herr hlen hfit hmem
    | both hdr bs hi hi' herr hhl hlen hfit hmem => exact .both hdr bs hi hi' herr hhl hlen hfit hmem

theorem pesDec_result (s : State) : CommandResult .pesDec s (pesDec s) := by
  by_cases hlarge : s.params.inSize < s.inLen.toNat
  · rw [pesDec_of_inLenTooLarge hlarge]
    exact .raised (i := .pesDec) s nofun
  by_cases hstart : s.inLen.toNat < 3 ∨ memRead inBase 3 s ≠ startCode
  · rw [pesDec_of_noStartCode (Nat.not_lt.1 hlarge) hstart]
    exact .raised (i := .pesDec) s nofun
  by_cases hshort : s.inLen.toNat < 6
  · rw [pesDec_of_short (Nat.not_lt.1 hlarge) hstart hshort]
    exact .raised (i := .pesDec) s fun _ => rfl
  have hpkt := PacketStarts.of_checks hlarge hstart hshort
  cases hparse : parseHdr (s.input.drop 6) with
  | none =>
    rw [pesDec_of_parseHdr_none hpkt hparse]
    exact (CommandResult.decoded (h := PesHdr.default) rfl (input_drop_length_le 9 hpkt.fits)).logged _
  | some hdr =>
    rw [pesDec_of_parseHdr hpkt hparse]
    exact .decoded (parseHdr_length hparse).1 (input_drop_length_le _ hpkt.fits)

theorem tsSegment_result (s : State) : CommandResult .tsSegment s (tsSegment s) := by
  rw [tsSegment_eq]
  split_ifs with hlarge hover
  · exact .raised (i := .tsSegment) (st := .invalidOperand) s nofun
  · exact .raised (i := .tsSegment) (st := .bufferOverflow) s nofun
  · have hfit := Nat.not_lt.1 hover
    rw [← segment_flatten_length] at hfit
    unfold segmentedState
    generalize segment s.segCtx s.tsh.cc = g at hfit ⊢
    exact ⟨rfl, rfl, rfl, code_le .ok, .output _ rfl rfl rfl (fun _ => hfit) rfl⟩

theorem tsHdrEnc_result (s : State) : CommandResult .tsHdrEnc s (tsHdrEnc s) :=
  .emitted rfl rfl (outSize_ge_of_wf (by rw [tsHdrBytes_length]; decide)) rfl

theorem tsHdrDec_result (s : State) : CommandResult .tsHdrDec s (tsHdrDec s) := by
  rw [tsHdrDec_eq]
  split_ifs
  · exact .raised (i := .tsHdrDec) (st := .invalidOperand) s nofun
  · exact .raised (i := .tsHdrDec) (st := .malformedInput) s fun _ => rfl
  · exact ⟨rfl, rfl, rfl, code_le .ok, .kept rfl rfl⟩

theorem pcrEnc_result (s : State) : CommandResult .pcrEnc s (pcrEnc s) :=
  .emitted rfl rfl (outSize_ge_of_wf (by rw [pcrBytes_length]; decide)) rfl

theorem tsPktEnc_result (useAf : Bool) (s : State) : CommandResult (.tsPktEnc useAf) s (tsPktEnc useAf s) := by
  rw [tsPktEnc_eq]
  split_ifs
  · exact .raised (i := .tsPktEnc useAf) (st := .invalidOperand) s nofun
  · refine .emitted rfl rfl (outSize_ge_of_wf ?_) rfl
    rw [encodedPacket_length]
    decide

theorem payloadRegion_length_le (pkt : List Byte) : (payloadRegion pkt).length ≤ pkt.length := by
  rw [payloadRegion_eq]
  split_ifs <;> simp

theorem tsPktDec_result (s : State) : CommandResult .tsPktDec s (tsPktDec s) := by
  rw [tsPktDec_eq]
  split_ifs
  · exact .raised (i := .tsPktDec) (st := .invalidOperand) s nofun
  · exact .raised (i := .tsPktDec) (st := .malformedInput) s fun _ => rfl
  · exact .raised (i := .tsPktDec) (st := .malformedInput) s fun _ => rfl
  · refine .emitted rfl rfl (outSize_ge_of_wf ((payloadRegion_length_le _).trans ?_)) rfl
    rw [inputPacket, memRead_length]
    decide

/-- Every command is over with its result (R440). -/
theorem exec_result (s : State) : ∀ i : Instr, ∃ t, exec i s = .next t ∧ CommandResult i s t
  | .peshTsenc => ⟨_, rfl, peshTsenc_result s⟩
  | .ts5Enc pfx => ⟨_, rfl, ts5Enc_result pfx s⟩
  | .peshEnc => ⟨_, rfl, peshEnc_result s⟩
  | .peshDec => ⟨_, rfl, peshDec_result s⟩
  | .pesBuildAudio => ⟨_, rfl, pesBuildAudio_result s⟩
  | .pesBuildVideo => ⟨_, rfl, pesBuildVideo_result s⟩
  | .pesDec => ⟨_, rfl, pesDec_result s⟩
  | .tsSegment => ⟨_, rfl, tsSegment_result s⟩
  | .tsHdrEnc => ⟨_, rfl, tsHdrEnc_result s⟩
  | .tsHdrDec => ⟨_, rfl, tsHdrDec_result s⟩
  | .pcrEnc => ⟨_, rfl, pcrEnc_result s⟩
  | .tsPktEnc useAf => ⟨_, rfl, tsPktEnc_result useAf s⟩
  | .tsPktDec => ⟨_, rfl, tsPktDec_result s⟩

theorem commandResult_of_exec {i : Instr} {s t : State} (h : exec i s = .next t) : CommandResult i s t := by
  obtain ⟨t', ht', hresult⟩ := exec_result s i
  obtain rfl : t' = t := Host.Outcome.next.inj (ht'.symm.trans h)
  exact hresult

/-! ### The bytes of the buffers -/

/-- No command writes the model's own fields, so a byte changes with the memory alone. -/
theorem CommandResult.byteAt_congr {i : Instr} {s t u : State} (h : CommandResult i s t) (hmem : t.mem = u.mem)
    (hmemDraw : u.memDraw = s.memDraw) (houtDraw : u.outDraw = s.outDraw) (a : Nat) : t.byteAt a = u.byteAt a :=
  Machine.byteAt_congr hmem ((congrArg State.memDraw h.regs).trans hmemDraw.symm)
    ((congrArg State.outDraw h.regs).trans houtDraw.symm) a

/-- An output that fits OUT_BUF is counted by OUT_LEN (R39). -/
theorem toNat_outLen {s t : State} {bs : List Byte} (hwf : s.params.wf = true) (hlen : t.outLen = BitVec.ofNat 32 bs.length)
    (hfit : s.params.wf = true → bs.length ≤ s.params.outSize) : t.outLen.toNat = bs.length := by
  obtain ⟨-, -, -, -, hout, -⟩ := sizes_of_wf hwf
  have hle := hfit hwf
  rw [hlen]
  exact ofNat_toNat_of_lt (by omega)

/-- A byte outside the stored strings is one that `byteWritten` does not name. -/
theorem byteWritten_eq_false_iff {i : Instr} {t : State} {a : Nat} (herr : t.err = 0) : byteWritten i t a = false ↔
    (i.writesHdrOpt = true → a < hdrOptBase ∨ hdrOptBase + t.hdrCtrl.hl.toNat ≤ a) ∧
      (i.emits = true → a < outBase ∨ outBase + t.outLen.toNat ≤ a) := by
  simp only [byteWritten, herr, decide_true, Bool.true_and, Bool.or_eq_false_iff, Bool.and_eq_false_imp,
    decide_eq_false_iff_not, not_and, not_lt]
  refine and_congr (imp_congr_right fun _ => ?_) (imp_congr_right fun _ => ?_) <;> omega

/-- Every byte that `byteWritten` does not name reads as before (R146). -/
theorem CommandResult.byteAt_eq {i : Instr} {s t : State} (h : CommandResult i s t) (hwf : s.params.wf = true) {a : Nat}
    (ha : byteWritten i t a = false) : t.byteAt a = s.byteAt a := by
  cases h.buffers with
  | kept hmem hlen => exact h.byteAt_congr hmem rfl rfl a
  | header bs hi herr hhl hmem hlen =>
    rw [h.byteAt_congr (u := memWrite hdrOptBase bs s) hmem rfl rfl]
    refine byteAt_memWrite_outside _ _ _ _ ?_
    rw [hhl]
    exact ((byteWritten_eq_false_iff herr).1 ha).1 hi
  | output bs hi herr hlen hfit hmem =>
    rw [h.byteAt_congr (u := memWrite outBase bs s) hmem rfl rfl]
    refine byteAt_memWrite_outside _ _ _ _ ?_
    rw [← toNat_outLen hwf hlen hfit]
    exact ((byteWritten_eq_false_iff herr).1 ha).2 hi
  | both hdr bs hi hi' herr hhl hlen hfit hmem =>
    obtain ⟨hahdr, haout⟩ := (byteWritten_eq_false_iff herr).1 ha
    rw [h.byteAt_congr (u := memWrite outBase bs (memWrite hdrOptBase hdr s)) hmem rfl rfl,
      byteAt_memWrite_outside, byteAt_memWrite_outside]
    · rw [hhl]
      exact hahdr hi
    · rw [← toNat_outLen hwf hlen hfit]
      exact haout hi'

/-- OUT_LEN counts bytes of OUT_BUF (R39). -/
theorem CommandResult.outLen_le {i : Instr} {s t : State} (h : CommandResult i s t) (hwf : s.params.wf = true) :
    t.outLen.toNat ≤ s.params.outSize := by
  cases h.buffers with
  | kept hmem hlen => exact hlen ▸ Nat.zero_le _
  | header bs hi herr hhl hmem hlen => exact hlen ▸ Nat.zero_le _
  | output bs hi herr hlen hfit hmem => exact (toNat_outLen hwf hlen hfit).trans_le (hfit hwf)
  | both hdr bs hi hi' herr hhl hlen hfit hmem => exact (toNat_outLen hwf hlen hfit).trans_le (hfit hwf)

/-! ### The obligations -/

/-- Settles O25, from the result of the command. -/
theorem everyCommandCompletes : Obligations.EveryCommandCompletes := by
  intro i s
  obtain ⟨t, hexec, h⟩ := exec_result s i
  exact ⟨t, hexec, h.regs, h.busy, h.done, h.err_le, fun hwf _ ha => h.byteAt_eq hwf ha⟩

/-- Settles O26: a header is no longer than HDR_OPT, and an output no longer than OUT_BUF. -/
theorem commandsWriteOnlyOutBufAndHdrOpt : Obligations.CommandsWriteOnlyOutBufAndHdrOpt := by
  intro i s t hwf hexec a hopt hout
  have h := commandResult_of_exec hexec
  refine h.byteAt_eq hwf ?_
  have hle := h.outLen_le hwf
  by_cases herr : t.err = 0
  · refine (byteWritten_eq_false_iff herr).2 ⟨fun _ => ?_, fun _ => by omega⟩
    have hhl := t.hdrCtrl.hl.isLt
    have hregion := of_decide_eq_false hopt
    simp only [hdrOptSize] at hregion
    omega
  · rw [byteWritten, decide_eq_false herr, Bool.false_and]

end Sys2Proof.Machine
end

section
/-! SUPPORT. The invariant of the block over every event: a command by its result, a bus access by its effect, the two resets,
and the updates of the model's own fields. The theorems settle O9 and O10. -/

namespace Sys2Proof.Machine

/-! ### States alike in what the invariant speaks of -/

/-- The invariant speaks of these fields only, and of the draws as a bound. -/
theorem Inv.of_frame {s t : State} (h : Inv s) (hdraws : s.draws ≤ t.draws) (hframe : t =
    { t with
      params := s.params, mem := s.mem, busy := s.busy, done := s.done, err := s.err, diag := s.diag
      outLen := s.outLen, fillCount := s.fillCount, pktCount := s.pktCount, afLen := s.afLen
      memDraw := s.memDraw, outDraw := s.outDraw }) : Inv t := by
  rw [hframe]
  exact {
    params_wf := h.params_wf
    mem_wf := h.mem_wf
    mem_inBuffers := h.mem_inBuffers
    busy_not_done := h.busy_not_done
    err_le := h.err_le
    diag_logged := h.diag_logged
    outLen_le := h.outLen_le
    fillCount_le := h.fillCount_le
    pktCount_le := h.pktCount_le
    afLen_le := h.afLen_le
    memDraw_lt := h.memDraw_lt.trans_le hdraws
    outDraw_lt := h.outDraw_lt.trans_le hdraws }

/-- A store of bytes of the buffers keeps the invariant (R104, R109). -/
theorem Inv.memWrite {s : State} {base : Nat} {bs : List Byte} (h : Inv s)
    (hbytes : ∀ i, i < bs.length → bufferByte s.params (base + i) = true) : Inv (memWrite base bs s) :=
  { h with
    mem_wf := wf_store _ _ _ h.mem_wf
    mem_inBuffers := inBuffers_store _ _ _ _ h.mem_inBuffers hbytes }

/-! ### The resets (R480 to R482) -/

/-- A state with every register at its reset value has the invariant, when its parameters, memory and draws do. -/
theorem RegistersAtReset.inv {t : State} (h : RegistersAtReset t) (hparams : t.params.wf = true)
    (hwf : Memory.wf t.mem = true) (hin : Memory.inBuffers t.params t.mem = true) (hmemDraw : t.memDraw < t.draws)
    (houtDraw : t.outDraw < t.draws) : Inv t where
  params_wf := hparams
  mem_wf := hwf
  mem_inBuffers := hin
  busy_not_done := fun _ => congrArg State.done h
  err_le := by
    rw [show t.err = 0 from congrArg State.err h]
    decide
  diag_logged := .inl (by
    rw [show t.diag = { last := 0, count := 0 } from congrArg State.diag h]
    exact ⟨rfl, rfl⟩)
  outLen_le := by
    rw [show t.outLen = 0 from congrArg State.outLen h]
    exact Nat.zero_le _
  fillCount_le := by
    rw [show t.fillCount = 0 from congrArg State.fillCount h]
    exact Nat.zero_le _
  pktCount_le := by
    rw [show t.pktCount = 0 from congrArg State.pktCount h]
    exact Nat.zero_le _
  afLen_le := by
    rw [show t.afLen = 0 from congrArg State.afLen h]
    exact Nat.zero_le _
  memDraw_lt := hmemDraw
  outDraw_lt := houtDraw

theorem Inv.softReset {s : State} (h : Inv s) : Inv (softReset s) := by
  refine (registersAtReset_softReset s).inv h.params_wf (wf_filter _ _ h.mem_wf) (inBuffers_filter _ _ _ h.mem_inBuffers)
    ?_ ?_
  · show s.memDraw < if s.busy then s.draws + 1 else s.draws
    have hlt := h.memDraw_lt
    split_ifs <;> omega
  · show (if s.busy then s.draws else s.outDraw) < if s.busy then s.draws + 1 else s.draws
    have hlt := h.outDraw_lt
    split_ifs <;> omega

theorem Inv.powerOnReset {s : State} (h : Inv s) : Inv (powerOnReset s) :=
  (registersAtReset_powerOnReset s).inv h.params_wf rfl rfl (Nat.lt_succ_self _) (Nat.lt_succ_self _)

/-! ### The host (R102 to R107) -/

/-- A write of an operand register touches nothing the invariant speaks of; those of CTRL, STATUS, CMD and DIAG reset,
clear, start and empty what it does (R107). -/
theorem Inv.writeReg {s : State} (r : Reg) (v : Word) (h : Inv s) : Inv (writeReg r v s) := by
  cases r
  case ctrl =>
    simp only [Machine.writeReg, writeCtrl]
    split
    · exact h.softReset
    · exact h.of_frame le_rfl rfl
  case status =>
    exact { h with busy_not_done := fun hbusy => Bool.and_eq_false_iff.2 (.inl (h.busy_not_done hbusy)) }
  case cmd =>
    exact { h with
      busy_not_done := fun _ => rfl
      memDraw_lt := Nat.lt_succ_of_lt h.memDraw_lt
      outDraw_lt := Nat.lt_succ_of_lt h.outDraw_lt }
  case diag => exact { h with diag_logged := .inl ⟨rfl, rfl⟩ }
  all_goals exact h.of_frame le_rfl rfl

/-- The block after a bus write: rejected, a register write, or a write of buffer bytes. -/
theorem Inv.busWrite {s : State} (w : Width) (off : Nat) (v : Word) (h : Inv s) : Inv (busWrite w off v s).1 := by
  rcases busWrite_cases w off v s with he | ⟨r, -, -, -, he⟩ | ⟨-, -, hbytes, he⟩ <;> rw [he]
  · exact h.of_frame le_rfl rfl
  · exact h.writeReg r v
  · exact h.memWrite (by rwa [leBytes_length])

/-- A read may use a fresh draw, and uses no draw again (log 3). -/
theorem busRead_draws_le (w : Width) (off : Nat) (s : State) : s.draws ≤ (busRead w off s).1.draws := by
  simp only [busRead]
  split
  · exact le_rfl
  · split <;> split
    · exact Nat.le_succ _
    · exact le_rfl
    · exact Nat.le_succ _
    · exact le_rfl

theorem Inv.busRead {s : State} (w : Width) (off : Nat) (h : Inv s) : Inv (busRead w off s).1 := by
  have hframe := busRead_frame w off s
  refine h.of_frame (busRead_draws_le w off s) ?_
  generalize (Machine.busRead w off s).1 = t at hframe ⊢
  generalize t.berr = berr, t.draws = draws at hframe
  subst hframe
  rfl

theorem Inv.respond {p : State × BusResponse} (h : Inv p.1) : Inv (respond p) := h.of_frame le_rfl rfl

theorem Inv.pushHost {s : State} (ops : List HostOp) (h : Inv s) : Inv (pushHost ops s) := h.of_frame le_rfl rfl

theorem Inv.hostStep {s t : State} {op : HostOp} (h : Inv s) (hstep : hostStep op s = .next t) : Inv t := by
  cases op with
  | write w off v =>
    simp only [Machine.hostStep] at hstep
    split at hstep
    · cases hstep
    · cases hstep
      exact (h.busWrite w off v).respond
  | read w off =>
    simp only [Machine.hostStep] at hstep
    split at hstep
    · cases hstep
    · cases hstep
      exact (h.busRead w off).respond
  | wait =>
    cases hstep
    exact ((h.busRead _ _).respond).pushHost _
  | copyByte src dst =>
    simp only [Machine.hostStep] at hstep
    split at hstep
    · cases hstep
    · cases hstep
      exact ((h.busRead _ _).respond).pushHost _
  | powerOn =>
    cases hstep
    exact h.powerOnReset

/-! ### The commands (R440) -/

/-- A header of HL bytes lies in HDR_OPT, and an output that fits lies in OUT_BUF (R101). -/
theorem bufferByte_hdrOpt (p : Params) {i : Nat} (h : i < 256) : bufferByte p (hdrOptBase + i) = true := by
  have hregion : inHdrOptRegion (hdrOptBase + i) = true := decide_eq_true ⟨Nat.le_add_right _ _, Nat.add_lt_add_left h _⟩
  simp [bufferByte, hregion]

theorem bufferByte_out {p : Params} {i : Nat} (h : i < p.outSize) : bufferByte p (outBase + i) = true := by
  simp [bufferByte, h]

/-- The memory a command leaves is canonical and lists bytes of the buffers only. -/
theorem CommandResult.mem_inv {i : Instr} {s t : State} (h : CommandResult i s t) (hinv : Inv s) :
    Memory.wf t.mem = true ∧ Memory.inBuffers s.params t.mem = true := by
  have hhdr : ∀ {bs : List Byte} {u : State}, bs.length = t.hdrCtrl.hl.toNat → Inv u → Inv (memWrite hdrOptBase bs u) :=
    fun hhl hu => hu.memWrite fun i hi => bufferByte_hdrOpt _ (by have := t.hdrCtrl.hl.isLt; omega)
  have hout : ∀ {bs : List Byte} {u : State}, u.params = s.params → (s.params.wf = true → bs.length ≤ s.params.outSize) →
      Inv u → Inv (memWrite outBase bs u) :=
    fun hp hfit hu => hu.memWrite fun i hi => bufferByte_out (by rw [hp]; exact hi.trans_le (hfit hinv.params_wf))
  cases h.buffers with
  | kept hmem hlen =>
    rw [hmem]
    exact ⟨hinv.mem_wf, hinv.mem_inBuffers⟩
  | header bs hi herr hhl hmem hlen =>
    rw [hmem]
    exact ⟨(hhdr hhl hinv).mem_wf, (hhdr hhl hinv).mem_inBuffers⟩
  | output bs hi herr hlen hfit hmem =>
    rw [hmem]
    exact ⟨(hout rfl hfit hinv).mem_wf, (hout rfl hfit hinv).mem_inBuffers⟩
  | both hdr bs hi hi' herr hhl hlen hfit hmem =>
    rw [hmem]
    have hboth := hout (u := memWrite hdrOptBase hdr s) rfl hfit (hhdr hhl hinv)
    exact ⟨hboth.mem_wf, hboth.mem_inBuffers⟩

/-- FILL_COUNT is written by TS_PKT_ENC alone (R40). -/
theorem fillCount_le_of_exec {i : Instr} {s t : State} (hexec : exec i s = .next t) (hle : s.fillCount.toNat ≤ 184) :
    t.fillCount.toNat ≤ 184 := by
  have hregs := congrArg State.fillCount (commandResult_of_exec hexec).regs
  cases i
  case tsPktEnc useAf =>
    obtain rfl : tsPktEnc useAf s = t := Host.Outcome.next.inj hexec
    rw [tsPktEnc_eq]
    split_ifs
    · exact Nat.zero_le _
    · rw [encodedState_fillCount]
      have hfit := pktFilled_w_add_pad_le useAf s
      omega
  all_goals exact (congrArg BitVec.toNat hregs).trans_le hle

/-- PKT_COUNT is written by TS_SEGMENT alone (R41). -/
theorem pktCount_le_of_exec {i : Instr} {s t : State} (hexec : exec i s = .next t)
    (hle : 188 * s.pktCount.toNat ≤ s.params.outSize) : 188 * t.pktCount.toNat ≤ s.params.outSize := by
  have hregs := congrArg State.pktCount (commandResult_of_exec hexec).regs
  cases i
  case tsSegment =>
    rw [eq_tsSegment_of_exec hexec, tsSegment_eq]
    split_ifs with hlarge hover
    · exact Nat.zero_le _
    · exact Nat.zero_le _
    · rw [segmentedState_pktCount]
      exact Nat.not_lt.1 hover
  all_goals exact (congrArg (fun n : Word => 188 * n.toNat) hregs).trans_le hle

/-- AF_LEN is written by TS_PKT_DEC alone (R64). -/
theorem afLen_le_of_exec {i : Instr} {s t : State} (hexec : exec i s = .next t) (hle : s.afLen.toNat ≤ 183) :
    t.afLen.toNat ≤ 183 := by
  have hregs := congrArg State.afLen (commandResult_of_exec hexec).regs
  cases i
  case tsPktDec =>
    obtain rfl : tsPktDec s = t := Host.Outcome.next.inj hexec
    rw [tsPktDec_eq]
    split_ifs with hlarge hbad hlong
    · exact hle
    · exact Nat.zero_le _
    · exact Nat.zero_le _
    · have hafLen : (decodedState (inputPacket s) s).afLen.toNat = decodedAfLen (inputPacket s) :=
        ofNat_toNat_of_lt (by omega)
      rw [hafLen]
      exact Nat.not_lt.1 hlong
  all_goals exact (congrArg BitVec.toNat hregs).trans_le hle

/-- DIAG after a command: as before, or with MalformedInput logged (R42). -/
theorem diag_logged_of_exec {i : Instr} {s t : State} (hexec : exec i s = .next t)
    (h : (s.diag.last = 0 ∧ s.diag.count = 0) ∨ (s.diag.last = 1 ∧ s.diag.count ≠ 0)) :
    (t.diag.last = 0 ∧ t.diag.count = 0) ∨ (t.diag.last = 1 ∧ t.diag.count ≠ 0) := by
  rw [exec_diag hexec]
  split_ifs
  · exact .inr (log_ne_zero s.diag)
  · exact h

theorem Inv.exec {i : Instr} {s t : State} (h : Inv s) (hexec : exec i s = .next t) : Inv t := by
  have hresult := commandResult_of_exec hexec
  have hparams : t.params = s.params := (congrArg State.params hresult.regs).trans rfl
  have hdraws : t.draws = s.draws := (congrArg State.draws hresult.regs).trans rfl
  obtain ⟨hwf, hin⟩ := hresult.mem_inv h
  exact {
    params_wf := hparams ▸ h.params_wf
    mem_wf := hwf
    mem_inBuffers := hparams ▸ hin
    busy_not_done := fun hbusy => absurd hbusy (by rw [hresult.busy]; decide)
    err_le := hresult.err_le
    diag_logged := diag_logged_of_exec hexec h.diag_logged
    outLen_le := hparams ▸ hresult.outLen_le h.params_wf
    fillCount_le := fillCount_le_of_exec hexec h.fillCount_le
    pktCount_le := hparams ▸ pktCount_le_of_exec hexec h.pktCount_le
    afLen_le := afLen_le_of_exec hexec h.afLen_le
    memDraw_lt := by
      rw [hdraws, congrArg State.memDraw hresult.regs]
      exact h.memDraw_lt
    outDraw_lt := by
      rw [hdraws, congrArg State.outDraw hresult.regs]
      exact h.outDraw_lt }

/-- An illegal word changes STATUS and OUT_LEN only (R143). -/
theorem Inv.illegalCommand {s : State} (h : Inv s) : Inv (illegalCommand s) := by
  rw [illegalCommand_eq]
  exact { h with
    busy_not_done := nofun
    err_le := code_le .illegalCommand
    outLen_le := Nat.zero_le _ }

/-! ### The obligations -/

/-- Settles O9, by the three kinds of events. -/
theorem invariantKeptByEveryStep : Obligations.InvariantKeptByEveryStep := by
  intro s t h hstep
  rcases step_next hstep with ⟨-, -, ⟨i, -, hexec⟩ | ⟨-, rfl⟩⟩ | ⟨-, -, rfl⟩ | ⟨op, rest, -, hhost⟩
  · exact h.exec hexec
  · exact h.illegalCommand
  · exact h
  · have htaken : Inv { s with host := rest, delay := s.delay - 1 } := h.of_frame le_rfl rfl
    exact htaken.hostStep hhost

/-- Settles O10: the sizes of the spec conform, and nothing is listed or logged. -/
theorem invariantHoldsAtReset : Obligations.InvariantHoldsAtReset :=
  registersAtReset_reset.inv (by decide) wf_reset rfl (by decide) (by decide)

end Sys2Proof.Machine
end

section
/-! SUPPORT. OUT_BUF is never an input (R494): the commands read HDR_OPT, CFG_BUF and IN_BUF, and do the same to two states that
read alike there. The last theorem settles O29. -/

namespace Sys2Proof.Machine

/-! ### States and results that differ in OUT_BUF only -/

/-- `u'` is `u` with another memory, which reads the same outside OUT_BUF. -/
structure SameButOutput (u u' : State) : Prop where
  regs : u' = { u with mem := u'.mem }
  bytes : SameBytesOutsideOut u u'

/-- The same of two results, whose OUT_LEN bytes of output are the same too. -/
structure SameResult (t t' : State) : Prop extends SameButOutput t t' where
  output : ∀ k, k < t.outLen.toNat → t'.byteAt (outBase + k) = t.byteAt (outBase + k)

/-- A result with no output. -/
theorem SameButOutput.result {t t' : State} (h : SameButOutput t t') (hlen : t.outLen = 0) : SameResult t t' where
  toSameButOutput := h
  output := fun k hk => by
    rw [hlen] at hk
    exact absurd hk (Nat.not_lt_zero k)

/-- The end of a command touches no byte. -/
theorem SameButOutput.complete {u u' : State} (st : Status) (h : SameButOutput u u') :
    SameButOutput (complete st u) (complete st u') where
  regs := congrArg (Machine.complete st) h.regs
  bytes := h.bytes

theorem SameButOutput.raise {u u' : State} (st : Status) (h : SameButOutput u u') :
    SameResult (raise st u) (raise st u') :=
  SameButOutput.result (.complete st ⟨congrArg (fun v : State => { v with outLen := 0 }) h.regs, h.bytes⟩) rfl

/-- The same string stored in both: inside it reads back, outside nothing changes. -/
theorem SameButOutput.memWrite {u u' : State} (base : Nat) (bs : List Byte) (h : SameButOutput u u') :
    SameButOutput (memWrite base bs u) (memWrite base bs u') where
  regs := by
    have hregs := h.regs
    generalize hmem : (Machine.memWrite base bs u').mem = m'
    rw [← hmem]
    generalize u'.mem = m at hregs
    subst hregs
    rfl
  bytes := fun a ha => by
    by_cases hin : base ≤ a ∧ a < base + bs.length
    · obtain ⟨k, rfl⟩ := Nat.exists_eq_add_of_le hin.1
      rw [byteAt_memWrite_inside _ _ _ _ (by omega), byteAt_memWrite_inside _ _ _ _ (by omega)]
    · rw [byteAt_memWrite_outside _ _ _ _ (by omega), byteAt_memWrite_outside _ _ _ _ (by omega)]
      exact h.bytes a ha

theorem SameButOutput.writeHdr {u u' : State} (hdr : PesHdr) (h : SameButOutput u u') :
    SameButOutput (writeHdr hdr u) (writeHdr hdr u') where
  regs := congrArg (fun v : State => { v with hdrCtrl := { f0 := hdr.f0, f1 := hdr.f1, hl := hdr.hl } })
    (h.memWrite hdrOptBase hdr.opt).regs
  bytes := (h.memWrite hdrOptBase hdr.opt).bytes

/-- The same output emitted by both. -/
theorem SameButOutput.emit {u u' : State} (bs : List Byte) (h : SameButOutput u u') :
    SameResult (Machine.complete .ok (emit bs u)) (Machine.complete .ok (emit bs u')) where
  regs := congrArg (fun v : State => Machine.complete .ok { v with outLen := BitVec.ofNat 32 bs.length })
    (h.memWrite outBase bs).regs
  bytes := (h.memWrite outBase bs).bytes
  output := fun k hk => by
    have hlt : k < bs.length := hk.trans_le (Nat.mod_le _ _)
    obtain ⟨-, hin, -⟩ := complete_emit_spec bs u
    obtain ⟨-, hin', -⟩ := complete_emit_spec bs u'
    rw [hin k hlt, hin' k hlt]

theorem SameButOutput.buildPacket {u u' : State} (sid : Byte) (hdr : PesHdr) (payload : List Byte)
    (h : SameButOutput u u') : SameResult (buildPacket sid hdr payload u) (buildPacket sid hdr payload u') := by
  unfold Machine.buildPacket
  split_ifs
  · exact h.raise _
  · exact h.emit _

theorem SameResult.logEvent {t t' : State} (st : Status) (h : SameResult t t') :
    SameResult (logEvent st t) (logEvent st t') where
  regs := congrArg (Machine.logEvent st) h.regs
  bytes := h.bytes
  output := h.output

theorem peshDec_of_inLenTooLarge {s : State} (h : s.params.inSize < s.inLen.toNat) :
    peshDec s = raise .invalidOperand s := if_pos ((inLenTooLarge_iff s).2 h)

/-! ### What the commands read -/

section

variable {s : State} {m : Memory} (hm : SameBytesOutsideOut s { s with mem := m })

include hm

/-- A range below OUT_BUF reads the same (R101). -/
theorem memRead_below {base n : Nat} (h : base + n ≤ outBase) :
    memRead base n { s with mem := m } = memRead base n s :=
  memRead_congr fun i hi => hm _ (decide_eq_false fun hout => by omega)

theorem hdr_same : ({ s with mem := m } : State).hdr = s.hdr := by
  have hhl := s.hdrCtrl.hl.isLt
  have hopt := memRead_below (base := hdrOptBase) (n := s.hdrCtrl.hl.toNat) hm
    (by simp only [hdrOptBase, outBase]; omega)
  exact congrArg (fun opt => ({ f0 := s.hdrCtrl.f0, f1 := s.hdrCtrl.f1, hl := s.hdrCtrl.hl, opt := opt } : PesHdr)) hopt

/-- IN_BUF ends where OUT_BUF begins (R10, R101). -/
theorem input_same (hwf : s.params.wf = true) (hin : s.inLen.toNat ≤ s.params.inSize) :
    ({ s with mem := m } : State).input = s.input := by
  have hsize := (sizes_of_wf hwf).2.1
  exact memRead_below hm (by simp only [inBase, outBase, State.inCount]; omega)

theorem inputPacket_same : inputPacket { s with mem := m } = inputPacket s := memRead_below hm (by decide)

theorem videoPreamble_same (hwf : s.params.wf = true) (hfit : VideoOperandsFit s) :
    videoPreamble { s with mem := m } = videoPreamble s := by
  have hsize := (sizes_of_wf hwf).2.2.2.2.2
  simp only [videoPreamble]
  by_cases hcfg : s.cfgV = true
  case neg => rw [if_neg hcfg, if_neg hcfg]
  case pos =>
    have hsets := hfit.2 hcfg
    have hsps := memRead_below (base := cfgBase) (n := s.spsLen.toNat) hm (by simp only [cfgBase, outBase]; omega)
    have hpps := memRead_below (base := cfgBase + s.spsLen.toNat) (n := s.ppsLen.toNat) hm
      (by simp only [cfgBase, outBase]; omega)
    rw [hsps, hpps]

/-! ### The commands -/

theorem peshTsenc_same : SameResult (peshTsenc s) (peshTsenc { s with mem := m }) := by
  have hfields : timestampFields { s with mem := m } s.ptsV s.dtsV = timestampFields s s.ptsV s.dtsV := rfl
  have hsame : SameButOutput s { s with mem := m } := ⟨rfl, hm⟩
  simp only [peshTsenc, hfields]
  cases timestampFields s s.ptsV s.dtsV with
  | error e => exact hsame.raise e
  | ok fields =>
    obtain ⟨ind, opt⟩ := fields
    have hstored := hsame.memWrite hdrOptBase opt
    refine SameButOutput.result (.complete .ok ⟨?_, hstored.bytes⟩) rfl
    exact congrArg (fun v : State => { v with
      hdrCtrl := { s.hdrCtrl.withPtsDts ind with hl := BitVec.ofNat 8 opt.length }, outLen := 0 }) hstored.regs

theorem ts5Enc_same (pfx : Nat) : SameResult (ts5Enc pfx s) (ts5Enc pfx { s with mem := m }) := by
  have hsame : SameButOutput s { s with mem := m } := ⟨rfl, hm⟩
  have hraw : ({ s with mem := m } : State).ptsRaw = s.ptsRaw := rfl
  simp only [ts5Enc, hraw]
  split_ifs
  · exact hsame.raise _
  · exact hsame.emit _

theorem peshEnc_same : SameResult (peshEnc s) (peshEnc { s with mem := m }) := by
  have hsame : SameButOutput s { s with mem := m } := ⟨rfl, hm⟩
  rw [peshEnc, peshEnc, hdr_same hm]
  exact hsame.emit _

theorem peshDec_same (hwf : s.params.wf = true) : SameResult (peshDec s) (peshDec { s with mem := m }) := by
  have hsame : SameButOutput s { s with mem := m } := ⟨rfl, hm⟩
  by_cases hin : s.inLen.toNat ≤ s.params.inSize
  case neg =>
    have hlarge := Nat.not_le.1 hin
    rw [peshDec_of_inLenTooLarge hlarge, peshDec_of_inLenTooLarge (s := { s with mem := m }) hlarge]
    exact hsame.raise _
  have hinput := input_same hm hwf hin
  cases hparse : parseHdr s.input with
  | none =>
    rw [peshDec_of_parseHdr_none hin hparse,
      peshDec_of_parseHdr_none (s := { s with mem := m }) hin (by rw [hinput, hparse])]
    exact SameButOutput.raise _ ⟨rfl, hm⟩
  | some h =>
    rw [peshDec_of_parseHdr hin hparse,
      peshDec_of_parseHdr (s := { s with mem := m }) (h := h) hin (by rw [hinput, hparse])]
    have hstored := hsame.writeHdr h
    exact SameButOutput.result
      (.complete .ok ⟨congrArg (fun v : State => { v with outLen := 0 }) hstored.regs, hstored.bytes⟩) rfl

theorem pesBuildAudio_same (hwf : s.params.wf = true) :
    SameResult (pesBuildAudio s) (pesBuildAudio { s with mem := m }) := by
  have hsame : SameButOutput s { s with mem := m } := ⟨rfl, hm⟩
  by_cases hin : s.inLen.toNat ≤ s.params.inSize
  case neg =>
    rw [pesBuildAudio_of_inLenTooLarge (Nat.not_le.1 hin),
      pesBuildAudio_of_inLenTooLarge (s := { s with mem := m }) (Nat.not_le.1 hin)]
    exact hsame.raise _
  by_cases hcfg : s.cfgV = true
  case neg =>
    have hno := Bool.eq_false_iff.2 hcfg
    rw [pesBuildAudio_of_unconfigured hin hno, pesBuildAudio_of_unconfigured (s := { s with mem := m }) hin hno]
    exact hsame.raise _
  cases hts : timestampFields s s.ptsV false with
  | error e =>
    rw [pesBuildAudio_of_timestamp_error hin hcfg hts,
      pesBuildAudio_of_timestamp_error (s := { s with mem := m }) hin hcfg hts]
    exact hsame.raise _
  | ok fields =>
    have hpayload : audioPayload { s with mem := m } = audioPayload s :=
      congrArg (audioHdr s.params s.audCfg s.inCount ++ ·) (input_same hm hwf hin)
    rw [pesBuildAudio_of_timestamps hin hcfg hts,
      pesBuildAudio_of_timestamps (s := { s with mem := m }) hin hcfg hts, hpayload]
    exact hsame.buildPacket _ _ _

theorem pesBuildVideo_same (hwf : s.params.wf = true) :
    SameResult (pesBuildVideo s) (pesBuildVideo { s with mem := m }) := by
  have hsame : SameButOutput s { s with mem := m } := ⟨rfl, hm⟩
  by_cases hfit : VideoOperandsFit s
  case neg =>
    rw [pesBuildVideo_of_operands hfit, pesBuildVideo_of_operands (s := { s with mem := m }) hfit]
    exact hsame.raise _
  have hinput := input_same hm hwf hfit.1
  cases hts : timestampFields s s.ptsV s.dtsV with
  | error e =>
    rw [pesBuildVideo_of_timestamp_error hfit hts,
      pesBuildVideo_of_timestamp_error (s := { s with mem := m }) hfit hts]
    exact hsame.raise _
  | ok fields =>
    cases hframe : annexB s.input with
    | none =>
      rw [pesBuildVideo_of_noFrame hfit hts hframe,
        pesBuildVideo_of_noFrame (s := { s with mem := m }) hfit hts (by rw [hinput, hframe])]
      exact hsame.raise _
    | some frame =>
      rw [pesBuildVideo_of_frame hfit hts hframe,
        pesBuildVideo_of_frame (s := { s with mem := m }) (frame := frame) hfit hts (by rw [hinput, hframe]),
        videoPreamble_same hm hwf hfit]
      exact hsame.buildPacket _ _ _

/-- A packet starts in IN_BUF of both or of neither (R281). -/
theorem storePacketFields_same : SameButOutput (storePacketFields s) (storePacketFields { s with mem := m }) := by
  have hbyte : ∀ k, k < 6 → ({ s with mem := m } : State).byteAt (inBase + k) = s.byteAt (inBase + k) := fun k hk =>
    hm _ (decide_eq_false fun hout => by simp only [inBase, outBase] at hout; omega)
  refine ⟨?_, hm⟩
  rw [storePacketFields, hbyte 3 (by decide), hbyte 4 (by decide), hbyte 5 (by decide)]
  rfl

theorem pesDec_same (hwf : s.params.wf = true) : SameResult (pesDec s) (pesDec { s with mem := m }) := by
  have hsame : SameButOutput s { s with mem := m } := ⟨rfl, hm⟩
  have hthree : memRead inBase 3 { s with mem := m } = memRead inBase 3 s := memRead_below hm (by decide)
  by_cases hlarge : s.params.inSize < s.inLen.toNat
  · rw [pesDec_of_inLenTooLarge hlarge, pesDec_of_inLenTooLarge (s := { s with mem := m }) hlarge]
    exact hsame.raise _
  have hin := Nat.not_lt.1 hlarge
  by_cases hstart : s.inLen.toNat < 3 ∨ memRead inBase 3 s ≠ startCode
  · rw [pesDec_of_noStartCode hin hstart, pesDec_of_noStartCode (s := { s with mem := m }) hin (by rwa [hthree])]
    exact hsame.raise _
  by_cases hshort : s.inLen.toNat < 6
  · rw [pesDec_of_short hin hstart hshort, pesDec_of_short (s := { s with mem := m }) hin (by rwa [hthree]) hshort]
    exact hsame.raise _
  have hpkt := PacketStarts.of_checks hlarge hstart hshort
  have hpkt' : PacketStarts { s with mem := m } := .of_checks hlarge (by rwa [hthree]) hshort
  have hinput := input_same hm hwf hin
  have hfields := storePacketFields_same hm
  cases hparse : parseHdr (s.input.drop 6) with
  | none =>
    rw [pesDec_of_parseHdr_none hpkt hparse, pesDec_of_parseHdr_none hpkt' (by rw [hinput, hparse]), hinput]
    exact ((hfields.writeHdr PesHdr.default).emit _).logEvent _
  | some hdr =>
    rw [pesDec_of_parseHdr hpkt hparse, pesDec_of_parseHdr (hdr := hdr) hpkt' (by rw [hinput, hparse]), hinput]
    exact (hfields.writeHdr hdr).emit _

theorem tsSegment_same (hwf : s.params.wf = true) : SameResult (tsSegment s) (tsSegment { s with mem := m }) := by
  rw [tsSegment_eq, tsSegment_eq]
  by_cases hlarge : s.params.inSize < s.inLen.toNat
  · rw [if_pos hlarge, if_pos hlarge]
    exact SameButOutput.raise _ ⟨rfl, hm⟩
  rw [if_neg hlarge, if_neg hlarge]
  by_cases hover : s.params.outSize < 188 * segCount s.inLen.toNat s.pcrV
  · rw [if_pos hover, if_pos hover]
    exact SameButOutput.raise _ ⟨rfl, hm⟩
  rw [if_neg hover, if_neg hover]
  have hctx : ({ s with mem := m } : State).segCtx = s.segCtx :=
    congrArg (fun payload => ({ s.segCtx with payload := payload } : SegCtx))
      (input_same hm hwf (Nat.not_lt.1 hlarge))
  unfold segmentedState
  rw [hctx]
  generalize segment s.segCtx s.tsh.cc = g
  have hregs : SameButOutput
      { s with pktCount := BitVec.ofNat 32 (segCount s.inLen.toNat s.pcrV), tsh := { s.tsh with cc := g.cc } }
      { s with
        mem := m, pktCount := BitVec.ofNat 32 (segCount s.inLen.toNat s.pcrV), tsh := { s.tsh with cc := g.cc } } :=
    ⟨rfl, hm⟩
  exact hregs.emit g.out.flatten

theorem tsHdrDec_same : SameResult (tsHdrDec s) (tsHdrDec { s with mem := m }) := by
  have hbyte : ∀ k, k < 4 → ({ s with mem := m } : State).byteAt (inBase + k) = s.byteAt (inBase + k) := fun k hk =>
    hm _ (decide_eq_false fun hout => by simp only [inBase, outBase] at hout; omega)
  have hhdr : inputHeader { s with mem := m } = inputHeader s := by
    rw [inputHeader, hbyte 1 (by decide), hbyte 2 (by decide), hbyte 3 (by decide)]
    rfl
  have hsync : ({ s with mem := m } : State).byteAt inBase = s.byteAt inBase := hbyte 0 (by decide)
  rw [tsHdrDec_eq, tsHdrDec_eq, hhdr, hsync]
  dsimp only
  split_ifs
  · exact SameButOutput.raise _ ⟨rfl, hm⟩
  · exact SameButOutput.raise _ ⟨rfl, hm⟩
  · exact SameButOutput.result (.complete .ok ⟨rfl, hm⟩) rfl

theorem tsPktEnc_same (useAf : Bool) (hwf : s.params.wf = true) :
    SameResult (tsPktEnc useAf s) (tsPktEnc useAf { s with mem := m }) := by
  rw [tsPktEnc_eq, tsPktEnc_eq]
  by_cases hbad : s.params.inSize < s.inLen.toNat ∨ (s.tsh.af = true ∧ s.afFlags.extractLsb' 0 4 ≠ 0)
  · rw [if_pos hbad, if_pos hbad]
    exact SameButOutput.raise _ ⟨rfl, hm⟩
  rw [if_neg hbad, if_neg hbad]
  have hpkt : encodedPacket useAf { s with mem := m } = encodedPacket useAf s :=
    congrArg (fun data => tsPacketBytes s.tsh (pktFilled useAf s) data s.pcrBase s.pcrExt)
      (input_same hm hwf (Nat.not_lt.1 (not_or.1 hbad).1))
  have hregs : SameButOutput (storeFilled useAf s) (storeFilled useAf { s with mem := m }) := ⟨rfl, hm⟩
  rw [encodedState, encodedState, hpkt]
  exact hregs.emit _

theorem tsPktDec_same : SameResult (tsPktDec s) (tsPktDec { s with mem := m }) := by
  rw [tsPktDec_eq, tsPktDec_eq, inputPacket_same hm]
  generalize inputPacket s = pkt
  dsimp only
  split_ifs
  · exact SameButOutput.raise _ ⟨rfl, hm⟩
  · exact SameButOutput.raise _ ⟨rfl, hm⟩
  · exact SameButOutput.raise _ ⟨rfl, hm⟩
  · have hregs : SameButOutput (storeDecoded pkt s) (storeDecoded pkt { s with mem := m }) := ⟨rfl, hm⟩
    exact hregs.emit _

end

/-- Every command gives the same result from both states. -/
theorem exec_same {s : State} {m : Memory} (hm : SameBytesOutsideOut s { s with mem := m }) (hwf : s.params.wf = true) :
    ∀ i : Instr, ∃ t t', exec i s = .next t ∧ exec i { s with mem := m } = .next t' ∧ SameResult t t'
  | .peshTsenc => ⟨_, _, rfl, rfl, peshTsenc_same hm⟩
  | .ts5Enc pfx => ⟨_, _, rfl, rfl, ts5Enc_same hm pfx⟩
  | .peshEnc => ⟨_, _, rfl, rfl, peshEnc_same hm⟩
  | .peshDec => ⟨_, _, rfl, rfl, peshDec_same hm hwf⟩
  | .pesBuildAudio => ⟨_, _, rfl, rfl, pesBuildAudio_same hm hwf⟩
  | .pesBuildVideo => ⟨_, _, rfl, rfl, pesBuildVideo_same hm hwf⟩
  | .pesDec => ⟨_, _, rfl, rfl, pesDec_same hm hwf⟩
  | .tsSegment => ⟨_, _, rfl, rfl, tsSegment_same hm hwf⟩
  | .tsHdrEnc => ⟨_, _, rfl, rfl, SameButOutput.emit (u := s) (u' := { s with mem := m }) _ ⟨rfl, hm⟩⟩
  | .tsHdrDec => ⟨_, _, rfl, rfl, tsHdrDec_same hm⟩
  | .pcrEnc => ⟨_, _, rfl, rfl, SameButOutput.emit (u := s) (u' := { s with mem := m }) _ ⟨rfl, hm⟩⟩
  | .tsPktEnc useAf => ⟨_, _, rfl, rfl, tsPktEnc_same hm useAf hwf⟩
  | .tsPktDec => ⟨_, _, rfl, rfl, tsPktDec_same hm⟩

/-- Settles O29. -/
theorem outBufIsNeverAnInput : Obligations.OutBufIsNeverAnInput := by
  intro i s m hwf hm t hexec
  obtain ⟨u, t', hu, ht', hsame⟩ := exec_same hm hwf i
  obtain rfl : u = t := Host.Outcome.next.inj (hu.symm.trans hexec)
  exact ⟨t', ht', hsame.regs, hsame.bytes, hsame.output⟩

end Sys2Proof.Machine
end
